-- ==== Sys2Proof/Word.lean ====
section
/-! DEFINITION. The widths the spec names (00_scope.md R11): byte, 16-bit and 32-bit quantities. -/

namespace Sys2Proof

/-- A byte: an unsigned 8-bit value (R11). -/
abbrev Byte := BitVec 8

/-- A 16-bit operand, coordinate, IBUF address or ACC value (R24, R41, R64). -/
abbrev Half := BitVec 16

/-- The 24-bit operand of VARLEN (R63, format FV). -/
abbrev Word24 := BitVec 24

/-- A register as the host reads or writes it: 32 bits (R22). -/
abbrev Word := BitVec 32

end Sys2Proof
end

