-- ==== Sys2Proof/Config.lean ====
section
/-! DEFINITION. The parameters of 00_scope.md R9. Those the source or the spec fixes are plain definitions; those marked
OPEN are opaque constants with no value that Lean could see, so that every claim holds for every instantiation (R9, R36;
log 6). The test instantiation T0 (R10) is not used. -/

namespace Sys2Proof.Config

/-! ### Fixed by the source or decided by the spec -/

/-- MAGIC: the first four bytes of every packet (R9, R70). -/
def magic : List Byte := [0xAA, 0x55, 0xFF, 0xFF]

/-- CHUNK_W: chunk payload width in bytes (R9). -/
def chunkW : Nat := 196

/-- MAX_CHUNKS: largest accepted chunk count (R9, R129). -/
def maxChunks : Nat := 255

/-- BRIGHT_MAX: largest accepted brightness level (R9, R108). -/
def brightMax : Nat := 15

/-- CHUNK_LEN_ADD: chunk length byte = payload bytes + 41 (R9, R122). -/
def chunkLenAdd : Nat := 41

/-- DRAW_LEN_ADD: draw length byte = payload length + 6 (R9, R142). -/
def drawLenAdd : Nat := 6

/-- DRAW_PAD: the envelope's pad byte, decided by the spec (R9, D18; log 12). -/
def drawPad : Byte := 0x00

/-- FILL_TLV_LEN: FillRect's fixed length byte, a literal (R9, R146). -/
def fillTlvLen : Byte := 13

/-- TLV_LEN_BIAS: Bitmap length value = 13 + pixel bytes, decided by the spec (R9, R149, D21; log 11). -/
def tlvLenBias : Nat := 13

/-- The largest draw payload whose length byte fits: len(P) + 6 ≤ 255 (R143). -/
def drawPayloadMax : Nat := 249

/-- IBUF_SIZE (R9, R41). -/
def ibufSize : Nat := 65536

/-- CMDBUF_SIZE (R9, R31). -/
def cmdbufSize : Nat := 16

/-- The two readings of what checksum 2 sums (R9, R82). -/
inductive Chk2Span where
  /-- checksum 2 sums checksum 1 as well -/
  | inclusive
  /-- checksum 2 leaves checksum 1 out (the documented alternative, D11) -/
  | exclusive
  deriving DecidableEq, Repr

/-- CHK2_SPAN: INCLUSIVE, as 90_conflicts.md C1 resolves it (R9, R82; log 9). -/
def chk2Span : Chk2Span := .inclusive

/-! ### OPEN parameters: free values -/

/-- Byte `k` of RESET_TAIL (R9, R100): OPEN. -/
opaque resetTailByte : Fin 12 → Byte

/-- Byte `k` of READY_TAIL (R9, R101): OPEN. -/
opaque readyTailByte : Fin 12 → Byte

/-- Byte `k` of UC_TAIL (R9, R102): OPEN. -/
opaque ucTailByte : Fin 13 → Byte

/-- Byte `k` of CHUNK_CONST_TAIL (R9, R122): OPEN. -/
opaque chunkConstTailByte : Fin 23 → Byte

/-- PLI_W − 1: OPEN. PLI_W ≥ 1 is R126; that a chunk packet of 233 + PLI_W bytes fits the 16-bit OUT_HEAD_LEN, so
PLI_W ≤ 65302, is DEDUCED from R28 (log 7). -/
opaque chunkPliExtra : Fin 65302

/-- Byte `k` of CHUNK_PLI (R9, R126): OPEN. -/
opaque chunkPliByte : Nat → Byte

/-- DRAW_FLAG (R9, R142): OPEN. -/
opaque drawFlag : Byte

/-- DRAW_CMD (R9, R142): OPEN. -/
opaque drawCmd : Byte

/-- TAG_FILL (R9, R146): OPEN. -/
opaque tagFill : Byte

/-- TAG_BITMAP (R9, R149): OPEN. -/
opaque tagBitmap : Byte

/-- SUB_FILL (R9, R146): OPEN. -/
opaque subFill : Byte

/-- SUB_BITMAP (R9, R149): OPEN. -/
opaque subBitmap : Byte

/-- OUTQ_CAPACITY − 259: OPEN; the spec bounds OUTQ_CAPACITY by 259 and 65535 (R27, R45; log 8). -/
opaque outqSlack : Fin 65277

/-! ### The OPEN parameters in the spec's own shape -/

/-- RESET_TAIL, 12 bytes (R100). -/
def resetTail : List Byte := List.ofFn resetTailByte

/-- READY_TAIL, 12 bytes (R101). -/
def readyTail : List Byte := List.ofFn readyTailByte

/-- UC_TAIL, 13 bytes (R102). -/
def ucTail : List Byte := List.ofFn ucTailByte

/-- CHUNK_CONST_TAIL, 23 bytes (R122). -/
def chunkConstTail : List Byte := List.ofFn chunkConstTailByte

/-- PLI_W, the width of CHUNK_PLI (R126). -/
def pliW : Nat := chunkPliExtra.val + 1

/-- CHUNK_PLI, PLI_W bytes (R126). -/
def chunkPli : List Byte := (List.range pliW).map chunkPliByte

/-- OUTQ_CAPACITY (R45). -/
def outqCapacity : Nat := outqSlack.val + 259

/-! ### Placement in the host's address map -/

/-- The three host-visible address spaces (R40). -/
inductive Space where
  /-- the register space, 256 bytes (R22) -/
  | regs
  /-- the input buffer, 65536 bytes (R41) -/
  | ibuf
  /-- the window onto the head frame (R44) -/
  | out
  deriving DecidableEq, Repr

/-- BLOCK_BASE: where the platform puts each space in the host's own map (R51): OPEN (log 18). -/
opaque blockBase : Space → Nat

/-- The host address of a byte of a space (R51). No block rule reads it: host accesses name a space and an offset. -/
def hostAddress (space : Space) (offset : Nat) : Nat := blockBase space + offset

end Sys2Proof.Config
end

