-- ==== Sys2Proof/Syntax.lean ====
section
/-! DEFINITION. The YSC command set, edition 1 (30_encoding.md R65): the commands with their decoded operands, the
mnemonics, and the lines of the assembler (R68, R69). -/

namespace Sys2Proof

/-- A block command with its operands (R65). Every operand is unsigned (R64); its width is the field's (R63). -/
inductive Instr where
  /-- CKCLR (R85) -/
  | ckclr
  /-- CKFEED addr, len (R86) -/
  | ckfeed (addr len : Half)
  /-- CKTRAIL (R87) -/
  | cktrail
  /-- SUM8 addr, len (R88) -/
  | sum8 (addr len : Half)
  /-- HISUM addr, len (R89) -/
  | hisum (addr len : Half)
  /-- CKPAIR addr, len (R90) -/
  | ckpair (addr len : Half)
  /-- PKT_RESET (R104) -/
  | pktReset
  /-- PKT_READY (R105) -/
  | pktReady
  /-- PKT_UC (R106) -/
  | pktUc
  /-- PKT_BRIGHT level (R108) -/
  | pktBright (level : Byte)
  /-- CHUNK addr, len, index (R130) -/
  | chunk (addr len index : Half)
  /-- UPLOAD_SEQ addr, len (R131) -/
  | uploadSeq (addr len : Half)
  /-- FILLRECT seq, r, g, b, x0, y0, x1, y1 (R147) -/
  | fillrect (seq : Half) (r g b : Byte) (x0 y0 x1 y1 : Half)
  /-- BITMAP seq, r, g, b, x0, y0, w, h, addr (R150) -/
  | bitmap (seq : Half) (r g b : Byte) (x0 y0 w h addr : Half)
  /-- PIXELS seq, r, g, b, addr, count (R152) -/
  | pixels (seq : Half) (r g b : Byte) (addr count : Half)
  /-- VARLEN v (R141) -/
  | varlen (v : Word24)
  deriving DecidableEq, Repr

/-- The sixteen mnemonics of the opcode map (R65). -/
inductive Opcode where
  | ckclr | ckfeed | cktrail | sum8 | hisum | ckpair
  | pktReset | pktReady | pktUc | pktBright
  | chunk | uploadSeq
  | fillrect | bitmap | pixels | varlen
  deriving DecidableEq, Repr

/-- A line of a program (R68, R69), with operands as written: plain numbers, not yet checked against their fields. -/
inductive AsmLine where
  /-- `MNEMONIC op1, op2, ...`: one command (R68) -/
  | cmd (op : Opcode) (operands : List Nat)
  /-- `IBW addr, b0, b1, ...`: the host writes IBUF bytes (R69) -/
  | ibw (addr : Nat) (bytes : List Nat)
  /-- `POP`: the host takes the head frame (R69) -/
  | pop
  /-- `CKSUM addr, len`: CKCLR, then CKFEED (R69) -/
  | cksum (addr len : Nat)
  /-- `CHECK ERR = e`: the host compares STATUS.ERR (R69) -/
  | check (e : Nat)
  deriving DecidableEq, Repr

end Sys2Proof
end

