-- ==== Sys2Proof/WellFormed.lean ====
section
/-! DEFINITION. What an assembler refuses (30_encoding.md R68: "An assembler must refuse an operand that does not fit its
field"). A decoded `Instr` is well formed by its type: each operand has the width of its field, and no operand value makes
an encoding illegal (R66). A written line has plain numbers and is checked here. -/

namespace Sys2Proof

/-- The widths in bits of a command's operands, in the order of R65's operands column with the fields of R63. -/
def Opcode.operandWidths : Opcode → List Nat
  | .ckclr => []
  | .ckfeed => [16, 16]
  | .cktrail => []
  | .sum8 => [16, 16]
  | .hisum => [16, 16]
  | .ckpair => [16, 16]
  | .pktReset => []
  | .pktReady => []
  | .pktUc => []
  | .pktBright => [8]
  | .chunk => [16, 16, 16]
  | .uploadSeq => [16, 16]
  | .fillrect => [16, 8, 8, 8, 16, 16, 16, 16]
  | .bitmap => [16, 8, 8, 8, 16, 16, 16, 16, 16]
  | .pixels => [16, 8, 8, 8, 16, 16]
  | .varlen => [24]

/-- Each number fits its field, and there are as many numbers as fields (R68). -/
def operandsFit : List Nat → List Nat → Bool
  | [], [] => true
  | width :: widths, v :: vs => decide (v < 2 ^ width) && operandsFit widths vs
  | _, _ => false

/-- The line has an encoding (R68): operands fit their fields, those of the commands CKSUM expands to among them. R69 gives
the operands of IBW and CHECK no range, and the model's choice is to refuse the line (log 19): IBW must stay inside IBUF
(DEDUCED from R41) and write bytes (DEDUCED from R11), and the e of CHECK must be at most 255, since STATUS.ERR has 8 bits
(DESIGN CHOICE: the comparison would otherwise just be unequal). -/
def AsmLine.wellFormed : AsmLine → Bool
  | .cmd op operands => operandsFit op.operandWidths operands
  | .ibw addr bytes => decide (addr + bytes.length ≤ Config.ibufSize) && bytes.all (fun b => decide (b < 256))
  | .pop => true
  | .cksum addr len => decide (addr < 65536) && decide (len < 65536)
  | .check e => decide (e < 256)

end Sys2Proof
end

