-- ==== Sys2Proof/Decode.lean ====
section
/-! DEFINITION. Descriptors: the opcode map, the formats, the decoder and the encoder (30_encoding.md R60 to R68). -/

namespace Sys2Proof

/-! ### The opcode map and the formats -/

/-- The opcode byte of each mnemonic (R65). -/
def Opcode.code : Opcode → Byte
  | .ckclr => 0x01
  | .ckfeed => 0x02
  | .cktrail => 0x03
  | .sum8 => 0x04
  | .hisum => 0x05
  | .ckpair => 0x06
  | .pktReset => 0x10
  | .pktReady => 0x11
  | .pktUc => 0x12
  | .pktBright => 0x13
  | .chunk => 0x20
  | .uploadSeq => 0x21
  | .fillrect => 0x30
  | .bitmap => 0x31
  | .pixels => 0x32
  | .varlen => 0x38

/-- The rows of the opcode map, in its order (R65). -/
def Opcode.all : List Opcode :=
  [.ckclr, .ckfeed, .cktrail, .sum8, .hisum, .ckpair, .pktReset, .pktReady, .pktUc, .pktBright, .chunk, .uploadSeq,
    .fillrect, .bitmap, .pixels, .varlen]

/-- The mnemonic whose opcode a byte is; none for the 240 illegal values (R65, R66). -/
def Opcode.ofByte (b : Byte) : Option Opcode := Opcode.all.find? (fun op => op.code == b)

/-- The descriptor formats (R63). -/
inductive Format where
  | f0 | fb | fr | fc | fv | ff | fm | fp
  deriving DecidableEq, Repr

/-- A format's length in bytes (R63). -/
def Format.length : Format → Nat
  | .f0 => 1
  | .fb => 2
  | .fr => 5
  | .fc => 7
  | .fv => 4
  | .ff => 14
  | .fm => 16
  | .fp => 10

/-- The format of each opcode (R65). -/
def Opcode.format : Opcode → Format
  | .ckclr => .f0
  | .ckfeed => .fr
  | .cktrail => .f0
  | .sum8 => .fr
  | .hisum => .fr
  | .ckpair => .fr
  | .pktReset => .f0
  | .pktReady => .f0
  | .pktUc => .f0
  | .pktBright => .fb
  | .chunk => .fc
  | .uploadSeq => .fr
  | .fillrect => .ff
  | .bitmap => .fm
  | .pixels => .fp
  | .varlen => .fv

/-- LEN(op): a descriptor's length is a function of its opcode alone (R62). -/
def Opcode.length (op : Opcode) : Nat := op.format.length

/-- The mnemonic of a command. -/
def Instr.opcode : Instr → Opcode
  | .ckclr => .ckclr
  | .ckfeed _ _ => .ckfeed
  | .cktrail => .cktrail
  | .sum8 _ _ => .sum8
  | .hisum _ _ => .hisum
  | .ckpair _ _ => .ckpair
  | .pktReset => .pktReset
  | .pktReady => .pktReady
  | .pktUc => .pktUc
  | .pktBright _ => .pktBright
  | .chunk _ _ _ => .chunk
  | .uploadSeq _ _ => .uploadSeq
  | .fillrect _ _ _ _ _ _ _ _ => .fillrect
  | .bitmap _ _ _ _ _ _ _ _ _ => .bitmap
  | .pixels _ _ _ _ _ _ => .pixels
  | .varlen _ => .varlen

/-! ### Little-endian fields -/

/-- An LE16 operand field: low byte first (R64). -/
def ofLE16 (b0 b1 : Byte) : Half := b1 ++ b0

/-- An LE24 operand field: low byte first (R64). -/
def ofLE24 (b0 b1 b2 : Byte) : Word24 := (b2 ++ b1) ++ b0

/-- The two bytes of a 16-bit operand, low byte first (R64). -/
def bytesLE16 (v : Half) : List Byte := [v.extractLsb' 0 8, v.extractLsb' 8 8]

/-- The three bytes of a 24-bit operand, low byte first (R64). -/
def bytesLE24 (v : Word24) : List Byte := [v.extractLsb' 0 8, v.extractLsb' 8 8, v.extractLsb' 16 8]

/-! ### The operand layouts, one per format (R63): the command read and the bytes after it -/

/-- F0: no operand bytes. -/
def readF0 (i : Instr) (bs : List Byte) : Option (Instr × List Byte) := some (i, bs)

/-- FB: [1] imm8. -/
def readFB (k : Byte → Instr) : List Byte → Option (Instr × List Byte)
  | imm :: bs => some (k imm, bs)
  | _ => none

/-- FR: [1..2] addr; [3..4] len. -/
def readFR (k : Half → Half → Instr) : List Byte → Option (Instr × List Byte)
  | a0 :: a1 :: l0 :: l1 :: bs => some (k (ofLE16 a0 a1) (ofLE16 l0 l1), bs)
  | _ => none

/-- FC: [1..2] addr; [3..4] len; [5..6] index. -/
def readFC (k : Half → Half → Half → Instr) : List Byte → Option (Instr × List Byte)
  | a0 :: a1 :: l0 :: l1 :: i0 :: i1 :: bs => some (k (ofLE16 a0 a1) (ofLE16 l0 l1) (ofLE16 i0 i1), bs)
  | _ => none

/-- FV: [1..3] v. -/
def readFV (k : Word24 → Instr) : List Byte → Option (Instr × List Byte)
  | v0 :: v1 :: v2 :: bs => some (k (ofLE24 v0 v1 v2), bs)
  | _ => none

/-- FF: [1..2] seq; [3] r; [4] g; [5] b; [6..7] x0; [8..9] y0; [10..11] x1; [12..13] y1. -/
def readFF (k : Half → Byte → Byte → Byte → Half → Half → Half → Half → Instr) :
    List Byte → Option (Instr × List Byte)
  | s0 :: s1 :: r :: g :: b :: p0 :: p1 :: q0 :: q1 :: t0 :: t1 :: u0 :: u1 :: bs =>
    some (k (ofLE16 s0 s1) r g b (ofLE16 p0 p1) (ofLE16 q0 q1) (ofLE16 t0 t1) (ofLE16 u0 u1), bs)
  | _ => none

/-- FM: [1..2] seq; [3] r; [4] g; [5] b; [6..7] x0; [8..9] y0; [10..11] w; [12..13] h; [14..15] addr. -/
def readFM (k : Half → Byte → Byte → Byte → Half → Half → Half → Half → Half → Instr) :
    List Byte → Option (Instr × List Byte)
  | s0 :: s1 :: r :: g :: b :: p0 :: p1 :: q0 :: q1 :: w0 :: w1 :: h0 :: h1 :: a0 :: a1 :: bs =>
    some (k (ofLE16 s0 s1) r g b (ofLE16 p0 p1) (ofLE16 q0 q1) (ofLE16 w0 w1) (ofLE16 h0 h1) (ofLE16 a0 a1), bs)
  | _ => none

/-- FP: [1..2] seq; [3] r; [4] g; [5] b; [6..7] addr; [8..9] count. -/
def readFP (k : Half → Byte → Byte → Byte → Half → Half → Instr) : List Byte → Option (Instr × List Byte)
  | s0 :: s1 :: r :: g :: b :: a0 :: a1 :: c0 :: c1 :: bs =>
    some (k (ofLE16 s0 s1) r g b (ofLE16 a0 a1) (ofLE16 c0 c1), bs)
  | _ => none

/-- The operands of a command, read from the bytes after its opcode (R63, R65). -/
def readOperands (op : Opcode) (bs : List Byte) : Option (Instr × List Byte) :=
  match op with
  | .ckclr => readF0 .ckclr bs
  | .ckfeed => readFR .ckfeed bs
  | .cktrail => readF0 .cktrail bs
  | .sum8 => readFR .sum8 bs
  | .hisum => readFR .hisum bs
  | .ckpair => readFR .ckpair bs
  | .pktReset => readF0 .pktReset bs
  | .pktReady => readF0 .pktReady bs
  | .pktUc => readF0 .pktUc bs
  | .pktBright => readFB .pktBright bs
  | .chunk => readFC .chunk bs
  | .uploadSeq => readFR .uploadSeq bs
  | .fillrect => readFF .fillrect bs
  | .bitmap => readFM .bitmap bs
  | .pixels => readFP .pixels bs
  | .varlen => readFV .varlen bs

/-! ### The decoder -/

/-- Why bytes are no descriptor. -/
inductive DecodeError where
  /-- there is no byte 0 -/
  | noOpcode
  /-- byte 0 is one of the 240 illegal opcodes (R66) -/
  | illegalOpcode (op : Byte)
  /-- fewer than LEN(op) bytes -/
  | truncated (op : Opcode)
  deriving DecidableEq, Repr

/-- The command at the front of a byte string, with the bytes after it (R61 to R65). -/
def decode : List Byte → Except DecodeError (Instr × List Byte)
  | [] => .error .noOpcode
  | b :: bs =>
    match Opcode.ofByte b with
    | none => .error (.illegalOpcode b)
    | some op =>
      match readOperands op bs with
      | none => .error (.truncated op)
      | some found => .ok found

/-! ### The encoder -/

/-- The operand bytes of a command, in its format's layout (R63, R64). -/
def Instr.operandBytes : Instr → List Byte
  | .ckclr => []
  | .ckfeed addr len => bytesLE16 addr ++ bytesLE16 len
  | .cktrail => []
  | .sum8 addr len => bytesLE16 addr ++ bytesLE16 len
  | .hisum addr len => bytesLE16 addr ++ bytesLE16 len
  | .ckpair addr len => bytesLE16 addr ++ bytesLE16 len
  | .pktReset => []
  | .pktReady => []
  | .pktUc => []
  | .pktBright level => [level]
  | .chunk addr len index => bytesLE16 addr ++ bytesLE16 len ++ bytesLE16 index
  | .uploadSeq addr len => bytesLE16 addr ++ bytesLE16 len
  | .fillrect seq r g b x0 y0 x1 y1 =>
    bytesLE16 seq ++ [r, g, b] ++ bytesLE16 x0 ++ bytesLE16 y0 ++ bytesLE16 x1 ++ bytesLE16 y1
  | .bitmap seq r g b x0 y0 w h addr =>
    bytesLE16 seq ++ [r, g, b] ++ bytesLE16 x0 ++ bytesLE16 y0 ++ bytesLE16 w ++ bytesLE16 h ++ bytesLE16 addr
  | .pixels seq r g b addr count => bytesLE16 seq ++ [r, g, b] ++ bytesLE16 addr ++ bytesLE16 count
  | .varlen v => bytesLE24 v

/-- The descriptor of a command (R60): opcode, then operands. -/
def encode (i : Instr) : List Byte := i.opcode.code :: i.operandBytes

/-! ### The assembler's operand check (R68) -/

/-- The command a mnemonic and its written operands stand for; none where an operand is missing, left over, or does not
fit its field. -/
def assemble (op : Opcode) (operands : List Nat) : Option Instr :=
  if operandsFit op.operandWidths operands then
    match op, operands with
    | .ckclr, [] => some .ckclr
    | .ckfeed, [addr, len] => some (.ckfeed (.ofNat 16 addr) (.ofNat 16 len))
    | .cktrail, [] => some .cktrail
    | .sum8, [addr, len] => some (.sum8 (.ofNat 16 addr) (.ofNat 16 len))
    | .hisum, [addr, len] => some (.hisum (.ofNat 16 addr) (.ofNat 16 len))
    | .ckpair, [addr, len] => some (.ckpair (.ofNat 16 addr) (.ofNat 16 len))
    | .pktReset, [] => some .pktReset
    | .pktReady, [] => some .pktReady
    | .pktUc, [] => some .pktUc
    | .pktBright, [level] => some (.pktBright (.ofNat 8 level))
    | .chunk, [addr, len, index] => some (.chunk (.ofNat 16 addr) (.ofNat 16 len) (.ofNat 16 index))
    | .uploadSeq, [addr, len] => some (.uploadSeq (.ofNat 16 addr) (.ofNat 16 len))
    | .fillrect, [seq, r, g, b, x0, y0, x1, y1] =>
      some (.fillrect (.ofNat 16 seq) (.ofNat 8 r) (.ofNat 8 g) (.ofNat 8 b) (.ofNat 16 x0) (.ofNat 16 y0)
        (.ofNat 16 x1) (.ofNat 16 y1))
    | .bitmap, [seq, r, g, b, x0, y0, w, h, addr] =>
      some (.bitmap (.ofNat 16 seq) (.ofNat 8 r) (.ofNat 8 g) (.ofNat 8 b) (.ofNat 16 x0) (.ofNat 16 y0)
        (.ofNat 16 w) (.ofNat 16 h) (.ofNat 16 addr))
    | .pixels, [seq, r, g, b, addr, count] =>
      some (.pixels (.ofNat 16 seq) (.ofNat 8 r) (.ofNat 8 g) (.ofNat 8 b) (.ofNat 16 addr) (.ofNat 16 count))
    | .varlen, [v] => some (.varlen (.ofNat 24 v))
    | _, _ => none
  else none

/-! ### An instruction given as a number -/

/-- Bytes `0 .. n − 1` of a descriptor given as a number: byte `k` holds bits 8k+7 .. 8k (R63). -/
def descriptorBytes (n w : Nat) : List Byte := (List.range n).map (fun k => BitVec.ofNat 8 (w / 256 ^ k))

/-- The command read from a descriptor whose first `nbits` bits are `w` and whose other bits, up to 16 bytes, are 0. -/
def decodeTableWord (nbits w : Nat) : Option Instr :=
  match decode (descriptorBytes Config.cmdbufSize (w % 2 ^ nbits)) with
  | .ok (i, _) => some i
  | .error _ => none

end Sys2Proof
end

