-- ==== Sys2Proof/Machine/State.lean ====
section
/-! DEFINITION. The state of the machine as plain data (10_state.md R39), its reasons to stop, and the state after reset
(R37). The last two fields of `State` are the model's own: the host agent of R4 and R53 as plain data (log 5). -/

namespace Sys2Proof.Machine

/-- The model faults of 60_exceptions.md R178: no hardware outcomes, but behaviour the spec leaves unspecified. Each is
SAFE: the run stops in a state that is never final, so nothing can be proved of its end (R189). -/
inductive Fault where
  /-- Raised by a command or a host read of an IBUF byte, and by the pending command's read of a LATCH byte within
  LEN(op), that has not been written since reset (R43, R61). Safe. -/
  | unwrittenRead
  /-- Raised by a host write of CMD_GO or IBUF while STATUS.PENDING = 1 (R194). Safe. -/
  | hostHazard
  /-- Raised by a host read of the OUT window at or beyond OUT_HEAD_LEN, or with OUTQ empty (R44). Safe. -/
  | outRangeRead
  /-- Raised by a host access of a width or alignment that R33 does not allow (R33, D37). Safe. -/
  | badHostAccess
  deriving DecidableEq, Repr

/-- Why the model has no answer. -/
inductive Refusal where
  /-- Raised by `exec` for a command that has no meaning yet. Safe. No arm of `exec` raises it now. -/
  | notModelled (mnemonic : String)
  deriving DecidableEq, Repr

/-- The errors a command can raise (R170). They are hardware outcomes, reported in STATUS.ERR. -/
inductive CmdError where
  /-- an operand outside its domain -/
  | invalidParameter
  /-- chunk codec with L = 0 -/
  | emptyPayload
  /-- PIXELS with count = 0 -/
  | emptyPointSet
  /-- chunk codec with more than 255 chunks -/
  | tooManyChunks
  /-- descriptor byte 0 is not an opcode -/
  | illegalCommand
  deriving DecidableEq, Repr

/-- Bytes by address, addresses strictly rising. An address that is not listed is unwritten (R35, R43): presence is the
written mark. Used for IBUF, CMDBUF and LATCH. -/
abbrev Memory := List Host.Cell

/-- A frame: the complete byte list of one packet (R45). -/
abbrev Frame := List Byte

/-- The RESULT register's fields (R25). -/
structure Result where
  /-- RES0, the first result byte -/
  res0 : Byte
  /-- RES1, the second result byte -/
  res1 : Byte
  /-- RES2, the third result byte -/
  res2 : Byte
  /-- RESLEN, the number of valid result bytes, 0..3 -/
  resLen : Fin 4
  deriving DecidableEq, Repr

/-- The width of a host access (R33, R50): 8, 16 or 32 bits. R33 speaks of "any other width" and does not say which widths a
host can issue at all; that it can issue these three and no others is the model's choice (DESIGN CHOICE, log 20). -/
inductive Width where
  | w8 | w16 | w32
  deriving DecidableEq, Repr

/-- A host read (R50): a space, a width and a place in the space. -/
inductive HostRead where
  /-- a read in the 256-byte register space (R22) -/
  | reg (width : Width) (offset : Byte)
  /-- `ibuf_read(a)` (R41) -/
  | ibuf (width : Width) (addr : Half)
  /-- `out_read(i)` (R44) -/
  | out (width : Width) (index : Half)
  deriving DecidableEq, Repr

/-- A host write (R50); an 8-bit write stores the value's low byte (log 15). -/
inductive HostWrite where
  /-- a write in the 256-byte register space (R22) -/
  | reg (width : Width) (offset : Byte) (value : Word)
  /-- `ibuf_write(a, b)` (R41) -/
  | ibuf (width : Width) (addr : Half) (value : Word)
  /-- a write to the OUT window, which is ignored (R50) -/
  | out (width : Width) (index : Half) (value : Word)
  deriving DecidableEq, Repr

/-- One atomic host action (R53). -/
inductive HostAction where
  | read (r : HostRead)
  | write (w : HostWrite)
  /-- the reset input (R190) -/
  | blockReset
  deriving DecidableEq, Repr

/-- An item of the host's plan: what happens next in the interleaving of R53 (log 5). -/
inductive HostEvent where
  /-- the host performs one atomic action -/
  | act (a : HostAction)
  /-- the block takes its step -/
  | block
  /-- the host reads STATUS until PENDING = 0; until then the block takes its steps (R68 item 3) -/
  | poll
  /-- `POP`: the host takes the head frame whole (R44, R69; log 16) -/
  | pop
  /-- `CHECK ERR = e`: the host reads STATUS and compares STATUS.ERR (R69) -/
  | check (e : Byte)
  deriving DecidableEq, Repr

/-- What the host has got from the block. -/
inductive HostSeen where
  /-- the value of one read -/
  | word (v : Word)
  /-- a frame taken by POP -/
  | frame (bytes : Frame)
  /-- the outcome of a CHECK -/
  | checked (equal : Bool)
  deriving DecidableEq, Repr

/-- The machine's state: the fields of R39, then the host agent's two. -/
structure State where
  /-- STATUS.PENDING (R23) -/
  pending : Bool
  /-- STATUS.STICKY (R23) -/
  sticky : Bool
  /-- STATUS.ERR (R23, R170) -/
  err : Byte
  /-- ACC (R24) -/
  acc : Half
  /-- RESULT (R25) -/
  result : Result
  /-- CMDBUF and its written marks (R31, R35) -/
  cmdbuf : Memory
  /-- LATCH and its written marks; none while empty (R35) -/
  latch : Option Memory
  /-- IBUF and its written marks (R41, R35) -/
  ibuf : Memory
  /-- OUTQ, head first (R45) -/
  outq : List Frame
  /-- FAULT, the model-only record (R178) -/
  fault : Option Fault
  /-- the model's own: what the host does next (log 5) -/
  hostPlan : List HostEvent
  /-- the model's own: what the host has got, oldest first (log 5) -/
  hostSeen : List HostSeen
  deriving DecidableEq, Repr

/-- The state after power-on: a block reset from no prior state (R37, R190). -/
def State.reset : State where
  pending := false
  sticky := false
  err := 0x00
  acc := 0x0000
  result := ⟨0x00, 0x00, 0x00, 0⟩
  cmdbuf := []
  latch := none
  ibuf := []
  outq := []
  fault := none
  hostPlan := []
  hostSeen := []

end Sys2Proof.Machine
end

