-- ==== Sys2Proof/Machine/Ops.lean ====
section
/-! DEFINITION. The named operations: memory with written marks, the end of a command (error entry, completion), and
emission of frames. Every meaning is written over these. -/

namespace Sys2Proof.Machine

/-! ### Memory with written marks (R35, R41, R43) -/

/-- The byte at an address; none if it is unwritten. -/
def Memory.read (m : Memory) (a : Nat) : Option Byte :=
  match m with
  | [] => none
  | (k, b) :: rest => if k = a then some b else Memory.read rest a

/-- Store a byte and mark it written, keeping the addresses strictly rising. -/
def Memory.write (m : Memory) (a : Nat) (b : Byte) : Memory :=
  match m with
  | [] => [(a, b)]
  | (k, c) :: rest =>
    if a < k then (a, b) :: (k, c) :: rest
    else if a = k then (a, b) :: rest
    else (k, c) :: Memory.write rest a b

/-- The addresses rise strictly from above `low` and stay below `size`. -/
def Memory.risesFrom (low size : Nat) : Memory → Bool
  | [] => true
  | (k, _) :: rest => decide (low ≤ k) && decide (k < size) && Memory.risesFrom (k + 1) size rest

/-- The canonical form of a memory of `size` bytes: addresses strictly rising and below `size`. No entry equals what an
unlisted address reads as, since that is "unwritten" (log 2). -/
def Memory.wf (size : Nat) (m : Memory) : Bool := Memory.risesFrom 0 size m

/-- The bytes `a .. a + n − 1`; none if one of them is unwritten (R14, R43). -/
def Memory.readRange (m : Memory) (a : Nat) : Nat → Option (List Byte)
  | 0 => some []
  | n + 1 =>
    match Memory.read m a, Memory.readRange m (a + 1) n with
    | some b, some bs => some (b :: bs)
    | _, _ => none

/-! ### The outcomes of a command -/

/-- The outcome of a command or a step. -/
abbrev Outcome := Host.Outcome State Fault Refusal

/-- The ERR code of an error (R170). -/
def CmdError.code : CmdError → Byte
  | .invalidParameter => 0x01
  | .emptyPayload => 0x02
  | .emptyPointSet => 0x03
  | .tooManyChunks => 0x04
  | .illegalCommand => 0x05

/-- Error entry, the block's one way of taking an exception (R174): `STATUS.ERR <- code(E); STATUS.STICKY <- 1;
STATUS.PENDING <- 0`. No vector, no saved pc, no mode change; and there is no return (R179). -/
def State.failed (s : State) (e : CmdError) : State :=
  { s with err := e.code, sticky := true, pending := false }

/-- Successful completion (R175): `STATUS.ERR <- 0x00; STATUS.PENDING <- 0`. STICKY is unchanged. -/
def State.completed (s : State) : State :=
  { s with err := 0x00, pending := false }

/-- `raise E` (R14, R174). -/
def raise (e : CmdError) (s : State) : Outcome := .next (s.failed e)

/-- The end of a command that raised nothing (R175). -/
def complete (s : State) : Outcome := .next s.completed

/-- `hold` (R14, R46): the block has no step now and the command stays pending. The model's step changes nothing (log 1). -/
def hold (s : State) : Outcome := .next s

/-- Are `k` slots of OUTQ free (R46)? The first test is implied by the second, since OUTQ_CAPACITY ≥ 259 (R45,
`hasRoom_iff`); it lets the answer be computed for any instantiation while OUTQ is short. -/
def hasRoom (k : Nat) (s : State) : Bool :=
  decide (s.outq.length + k ≤ 259) || decide (s.outq.length + k ≤ Config.outqCapacity)

/-- `Emit(f1, ..., fk)` as a command's last act (R46, R175): all frames at the tail and completion, in one step; or hold
while fewer than k slots are free. -/
def emit (frames : List Frame) (s : State) : Outcome :=
  if hasRoom frames.length s then complete { s with outq := s.outq ++ frames } else hold s

end Sys2Proof.Machine
end

