-- ==== Sys2Proof/Machine/Flags.lean ====
section
/-! DEFINITION. The register words the host reads (10_state.md R22 to R28) and the writing of RESULT. The block has no
arithmetic flag; its flags are STATUS.PENDING and STATUS.STICKY and its condition code is STATUS.ERR (R34), written by
`State.failed` and `State.completed`. -/

namespace Sys2Proof.Machine

/-- STATUS (R23): PENDING bit 0, STICKY bit 1, ERR bits 15:8, the rest 0. -/
def State.statusWord (s : State) : Word :=
  (0 : BitVec 16) ++ s.err ++ (0 : BitVec 6) ++ BitVec.ofBool s.sticky ++ BitVec.ofBool s.pending

/-- ACC (R24): bits 15:0, the rest 0. -/
def State.accWord (s : State) : Word := (0 : BitVec 16) ++ s.acc

/-- RESULT (R25): RES0 bits 7:0, RES1 15:8, RES2 23:16, RESLEN 25:24, the rest 0. -/
def State.resultWord (s : State) : Word :=
  (0 : BitVec 6) ++ BitVec.ofNat 2 s.result.resLen.val ++ s.result.res2 ++ s.result.res1 ++ s.result.res0

/-- OUTQ_COUNT (R27): bits 15:0 the number of frames, the rest 0. -/
def State.outqCountWord (s : State) : Word := (0 : BitVec 16) ++ BitVec.ofNat 16 s.outq.length

/-- The byte length of the head frame, or 0 when the queue is empty (R28). -/
def State.headLen (s : State) : Nat := (s.outq.headD []).length

/-- OUT_HEAD_LEN (R28): bits 15:0, the rest 0. -/
def State.outHeadLenWord (s : State) : Word := (0 : BitVec 16) ++ BitVec.ofNat 16 s.headLen

/-- Write one result byte: RESLEN 1, the other bytes 0x00 (R25, R26). -/
def State.withResult1 (s : State) (b0 : Byte) : State := { s with result := ⟨b0, 0x00, 0x00, 1⟩ }

/-- Write two result bytes: RESLEN 2, the third byte 0x00 (R25, R26). -/
def State.withResult2 (s : State) (b0 b1 : Byte) : State := { s with result := ⟨b0, b1, 0x00, 2⟩ }

/-- Write three result bytes: RESLEN 3 (R25, R26). -/
def State.withResult3 (s : State) (b0 b1 b2 : Byte) : State := { s with result := ⟨b0, b1, b2, 3⟩ }

end Sys2Proof.Machine
end

