-- ==== Sys2Proof/Machine/Operands.lean ====
section
/-! DEFINITION. Where a command gets its operands: the latched descriptor (30_encoding.md R61) and ranges of IBUF
(20_memory.md R42, R43). -/

namespace Sys2Proof.Machine

/-! ### The latched descriptor (R61, R62, R67) -/

/-- What decoding the latched descriptor gives. -/
inductive Fetched where
  /-- a byte the decoder reads is unwritten -/
  | unwritten
  /-- byte 0 is no opcode -/
  | illegal
  /-- a command -/
  | command (i : Instr)
  deriving DecidableEq, Repr

/-- Decoding in R61's order: byte 0; an illegal opcode without reading further; then bytes 1 .. LEN(op) − 1. Bytes at
LEN(op) and above are not read (R62, R67). The decoder never refuses LEN(op) bytes of a legal opcode. -/
def fetchFrom (m : Memory) : Fetched :=
  match Memory.read m 0 with
  | none => .unwritten
  | some b =>
    match Opcode.ofByte b with
    | none => .illegal
    | some op =>
      match Memory.readRange m 0 op.length with
      | none => .unwritten
      | some bs =>
        match decode bs with
        | .ok (i, _) => .command i
        | .error _ => .illegal

/-- The pending command's descriptor. An empty LATCH holds no written byte (log 4). -/
def fetch (s : State) : Fetched := fetchFrom (s.latch.getD [])

/-! ### Ranges of IBUF -/

/-- A command range (a, n) is in range when a + n ≤ 65536 on unbounded integers (R42). -/
def inRange (a n : Nat) : Bool := decide (a + n ≤ Config.ibufSize)

/-- `MemRead(a, n)` and what is done with the bytes; UNWRITTEN_READ if one is unwritten (R43). -/
def withBytes (a n : Nat) (s : State) (use : List Byte → Outcome) : Outcome :=
  match Memory.readRange s.ibuf a n with
  | none => .fault .unwrittenRead
  | some bs => use bs

/-- The range check of R42, then what follows it. -/
def withRange (a n : Nat) (s : State) (use : Outcome) : Outcome :=
  if inRange a n then use else raise .invalidParameter s

end Sys2Proof.Machine
end

