-- ==== Sys2Proof/Machine/Checksum.lean ====
section
/-! DEFINITION. The checksum generator (40_checksum.md): the functions of §1 and the six commands of §2. -/

namespace Sys2Proof.Machine

/-! ### Functions -/

/-- Σ bs: the unbounded sum of the bytes (R12). -/
def byteSum (bs : List Byte) : Nat := (bs.map BitVec.toNat).sum

/-- `sumMod256(bs) = (Σ bs) mod 256` (R80). -/
def sumMod256 (bs : List Byte) : Byte := BitVec.ofNat 8 (byteSum bs)

/-- `highByteOfSum(bs) = ((Σ bs) div 256) mod 256` (R81). -/
def highByteOfSum (bs : List Byte) : Byte := BitVec.ofNat 8 (byteSum bs / 256)

/-- Checksum 2 of the bytes before the trailer, for either span (R82). -/
def checksum2 (span : Config.Chk2Span) (bs : List Byte) : Byte :=
  match span with
  | .inclusive => highByteOfSum (bs ++ [sumMod256 bs])
  | .exclusive => highByteOfSum bs

/-- The dual checksum for either span (R82). -/
def trailerWith (span : Config.Chk2Span) (bs : List Byte) : List Byte := [sumMod256 bs, checksum2 span bs]

/-- `Trailer(X)` (R82), with the block's CHK2_SPAN. -/
def trailer (bs : List Byte) : List Byte := trailerWith Config.chk2Span bs

/-- c1 of the accumulator: ACC[7:0] (R87). -/
def accChecksum1 (acc : Half) : Byte := acc.extractLsb' 0 8

/-- c2 of the accumulator: `((ACC + c1) mod 65536)[15:8]`, or ACC[15:8] (R87). -/
def accChecksum2 (span : Config.Chk2Span) (acc : Half) : Byte :=
  match span with
  | .inclusive => (acc + (accChecksum1 acc).setWidth 16).extractLsb' 8 8
  | .exclusive => acc.extractLsb' 8 8

/-! ### Commands -/

/-- CKCLR (R85): `ACC <- 0x0000`. -/
def execCkclr (s : State) : Outcome := complete { s with acc := 0x0000 }

/-- CKFEED addr, len (R86): `ACC <- (ACC + Σ bs) mod 65536`. -/
def execCkfeed (addr len : Half) (s : State) : Outcome :=
  withRange addr.toNat len.toNat s <|
    withBytes addr.toNat len.toNat s fun bs =>
      complete { s with acc := BitVec.ofNat 16 (s.acc.toNat + byteSum bs) }

/-- CKTRAIL (R87): RESULT <- the two-byte trailer of the bytes accumulated. -/
def execCktrail (s : State) : Outcome :=
  complete (s.withResult2 (accChecksum1 s.acc) (accChecksum2 Config.chk2Span s.acc))

/-- SUM8 addr, len (R88). -/
def execSum8 (addr len : Half) (s : State) : Outcome :=
  withRange addr.toNat len.toNat s <|
    withBytes addr.toNat len.toNat s fun bs => complete (s.withResult1 (sumMod256 bs))

/-- HISUM addr, len (R89). -/
def execHisum (addr len : Half) (s : State) : Outcome :=
  withRange addr.toNat len.toNat s <|
    withBytes addr.toNat len.toNat s fun bs => complete (s.withResult1 (highByteOfSum bs))

/-- CKPAIR addr, len (R90). -/
def execCkpair (addr len : Half) (s : State) : Outcome :=
  withRange addr.toNat len.toNat s <|
    withBytes addr.toNat len.toNat s fun bs =>
      complete (s.withResult2 (sumMod256 bs) (checksum2 Config.chk2Span bs))

end Sys2Proof.Machine
end

