-- ==== Sys2Proof/Machine/Framer.lean ====
section
/-! DEFINITION. The packet framer (41_packet_framer.md): three literal packets with OPEN tails, and Brightness. -/

namespace Sys2Proof.Machine

/-- `RESET_PKT = MAGIC ‖ RESET_TAIL`, 16 bytes (R100). A literal: nothing is computed for it (R103). -/
def resetPkt : Frame := Config.magic ++ Config.resetTail

/-- `READY_PKT = MAGIC ‖ READY_TAIL`, 16 bytes (R101). -/
def readyPkt : Frame := Config.magic ++ Config.readyTail

/-- `UC_PKT = MAGIC ‖ UC_TAIL`, 17 bytes (R102). -/
def ucPkt : Frame := Config.magic ++ Config.ucTail

/-- `BrightPkt(level)` (R107): every byte a literal but the level and `(0xD6 + level) mod 256`. -/
def brightPkt (level : Byte) : Frame :=
  Config.magic ++ [0x0A, 0x00, 0x04, 0x00] ++ [0xC1, 0x02, 0x06, 0x02] ++ [0x00, level, 0xD6 + level, 0x03]

/-- PKT_RESET (R104). -/
def execPktReset (s : State) : Outcome := emit [resetPkt] s

/-- PKT_READY (R105). -/
def execPktReady (s : State) : Outcome := emit [readyPkt] s

/-- PKT_UC (R106). -/
def execPktUc (s : State) : Outcome := emit [ucPkt] s

/-- PKT_BRIGHT level (R108): InvalidParameter above 15, before any byte is produced. -/
def execPktBright (level : Byte) (s : State) : Outcome :=
  if level.toNat > Config.brightMax then raise .invalidParameter s else emit [brightPkt level] s

end Sys2Proof.Machine
end

