-- ==== Sys2Proof/Machine/Chunk.lean ====
section
/-! DEFINITION. The chunk codec (42_chunk_codec.md): windows, header layout L0, chunk packets, and the packet list of an
upload. -/

namespace Sys2Proof.Machine

/-- `LE24(v)` for 0 ≤ v < 2^24 (R13). -/
def le24 (v : Nat) : List Byte := [BitVec.ofNat 8 v, BitVec.ofNat 8 (v / 256), BitVec.ofNat 8 (v / 65536)]

/-- `n = ceil(L / 196)` (R120). -/
def chunkCount (len : Nat) : Nat := (len + Config.chunkW - 1) / Config.chunkW

/-- A window from the blob bytes it covers: zero bytes on the right up to 196 (R121). -/
def padWindow (bytes : List Byte) : List Byte := bytes ++ List.replicate (Config.chunkW - bytes.length) 0x00

/-- How many blob bytes window `i` covers: `min(196, L − 196·i)` (R121, R130). -/
def windowLen (len i : Nat) : Nat := min Config.chunkW (len - Config.chunkW * i)

/-- `W_i` of a blob held as a list (R121). -/
def window (blob : List Byte) (i : Nat) : List Byte :=
  padWindow ((blob.drop (Config.chunkW * i)).take Config.chunkW)

/-- `H_i` of n chunks, layout L0 (R122, log 10): MAGIC, constant tail, length byte 237, the index twice, total, PLI. -/
def chunkHeader (i n : Nat) : List Byte :=
  Config.magic ++ Config.chunkConstTail ++ [BitVec.ofNat 8 (Config.chunkW + Config.chunkLenAdd)] ++ le24 i ++ le24 i ++
    [BitVec.ofNat 8 n] ++ Config.chunkPli

/-- A packet's bytes with their trailer appended (R72, R82). -/
def withTrailer (bs : List Byte) : Frame := bs ++ trailer bs

/-- The chunk packet of window bytes `w` as chunk `i` of `n` (R127). -/
def chunkPkt (w : List Byte) (i n : Nat) : Frame := withTrailer (chunkHeader i n ++ w)

/-- Transfer validity (R129), in its order: EmptyPayload, then TooManyChunks; then what follows. -/
def withTransfer (len : Nat) (s : State) (use : Outcome) : Outcome :=
  if len = 0 then raise .emptyPayload s
  else if chunkCount len > Config.maxChunks then raise .tooManyChunks s
  else use

/-- CHUNK addr, len, index (R130): reads window `index` only. -/
def execChunk (addr len index : Half) (s : State) : Outcome :=
  withRange addr.toNat len.toNat s <|
    withTransfer len.toNat s <|
      if index.toNat ≥ chunkCount len.toNat then raise .invalidParameter s
      else
        withBytes (addr.toNat + Config.chunkW * index.toNat) (windowLen len.toNat index.toNat) s fun bs =>
          emit [chunkPkt (padWindow bs) index.toNat (chunkCount len.toNat)] s

/-- The packet list of an upload (R131): Reset, Ready, every chunk in index order, UploadComplete twice. -/
def uploadFrames (blob : List Byte) : List Frame :=
  [resetPkt, readyPkt] ++
    (List.range (chunkCount blob.length)).map (fun i => chunkPkt (window blob i) i (chunkCount blob.length)) ++
    [ucPkt, ucPkt]

/-- UPLOAD_SEQ addr, len (R131): the whole blob is read. -/
def execUploadSeq (addr len : Half) (s : State) : Outcome :=
  withRange addr.toNat len.toNat s <|
    withTransfer len.toNat s <|
      withBytes addr.toNat len.toNat s fun blob => emit (uploadFrames blob) s

end Sys2Proof.Machine
end

