-- ==== Sys2Proof/Machine/Draw.lean ====
section
/-! DEFINITION. The TLV draw encoder (43_draw_tlv.md): the variable-length length field, the draw envelope, and the
FillRect, Bitmap and Pixels payloads. -/

namespace Sys2Proof.Machine

/-- `LE16(v)` for 0 ≤ v < 2^16 (R13). -/
def le16 (v : Nat) : List Byte := [BitVec.ofNat 8 v, BitVec.ofNat 8 (v / 256)]

/-! ### Variable-length length field (R140, R141) -/

/-- A 7-bit group with the continuation bit set. -/
def varLenMore (group : Nat) : Byte := 0x80 ||| BitVec.ofNat 8 (group % 128)

/-- The last 7-bit group: continuation bit clear. -/
def varLenLast (group : Nat) : Byte := BitVec.ofNat 8 (group % 128)

/-- `VarLen(v)` for 0 ≤ v < 2^21, the shortest form, least significant group first (R140). For larger v, where R140 gives
nothing, its value is never used (log 17). -/
def varLen (v : Nat) : List Byte :=
  if v < 128 then [varLenLast v]
  else if v < 2 ^ 14 then [varLenMore v, varLenLast (v / 128)]
  else [varLenMore v, varLenMore (v / 128), varLenLast (v / 2 ^ 14)]

/-- RESULT written with 1, 2 or 3 bytes; the others 0x00 (R141, R25). -/
def State.withVarLen (s : State) (v : Nat) : State :=
  match varLen v with
  | [b0] => s.withResult1 b0
  | [b0, b1] => s.withResult2 b0 b1
  | b0 :: b1 :: b2 :: _ => s.withResult3 b0 b1 b2
  | [] => s

/-- VARLEN v (R141): InvalidParameter when v ≥ 2^21. No frame is emitted. -/
def execVarlen (v : Word24) (s : State) : Outcome :=
  if v.toNat ≥ 2 ^ 21 then raise .invalidParameter s else complete (s.withVarLen v.toNat)

/-! ### Envelope (R142 to R145) -/

/-- The draw packet before its trailer: MAGIC, length byte, seq, pad, flag, command index, payload (R142). -/
def drawBody (seq : Half) (payload : List Byte) : List Byte :=
  Config.magic ++ [BitVec.ofNat 8 (payload.length + Config.drawLenAdd)] ++ bytesLE16 seq ++
    [Config.drawPad, Config.drawFlag, Config.drawCmd] ++ payload

/-- `DrawPkt(seq, P)` for len(P) ≤ 249 (R142). -/
def drawPkt (seq : Half) (payload : List Byte) : Frame := withTrailer (drawBody seq payload)

/-! ### FillRect (R146, R147) -/

/-- `FillPayload(r, g, b, x0, y0, x1, y1)`, 14 bytes; the length byte is the literal 13 (R146). -/
def fillPayload (r g b : Byte) (x0 y0 x1 y1 : Half) : List Byte :=
  [Config.tagFill, Config.fillTlvLen, Config.subFill, r, g, b] ++ bytesLE16 x0 ++ bytesLE16 y0 ++ bytesLE16 x1 ++
    bytesLE16 y1

/-- FILLRECT (R147): InvalidParameter when x0 > x1 or y0 > y1; coordinates are emitted verbatim (R153). -/
def execFillrect (seq : Half) (r g b : Byte) (x0 y0 x1 y1 : Half) (s : State) : Outcome :=
  if x0.toNat > x1.toNat ∨ y0.toNat > y1.toNat then raise .invalidParameter s
  else emit [drawPkt seq (fillPayload r g b x0 y0 x1 y1)] s

/-! ### Bit packing (R148) -/

/-- A pixel matrix: row, column. Only rows below h and columns below w are asked. -/
abbrev Pix := Nat → Nat → Bool

/-- Bytes per row: `ceil(w / 8)`. -/
def bytesPerRow (w : Nat) : Nat := (w + 7) / 8

/-- The bit of column `c` in its byte: `0x80 >> (c mod 8)` if the pixel is set; a column at or beyond w adds nothing. -/
def pixelBit (pix : Pix) (w r c : Nat) : Byte := if c < w ∧ pix r c = true then (0x80 : Byte) >>> (c % 8) else 0x00

/-- Byte `j` of row `r`: columns 8j .. 8j+7, most significant bit first. -/
def packByte (pix : Pix) (w r j : Nat) : Byte :=
  (List.range 8).foldl (fun acc k => acc ||| pixelBit pix w r (8 * j + k)) 0x00

/-- Row `r`; a row never shares a byte with the next. -/
def packRow (pix : Pix) (w r : Nat) : List Byte := (List.range (bytesPerRow w)).map (packByte pix w r)

/-- `Pack(pix, w, h)`: one bit per pixel, row-major (R148). -/
def pack (pix : Pix) (w h : Nat) : List Byte := (List.range h).flatMap (packRow pix w)

/-! ### Bitmap payload (R149) -/

/-- `nb`: the number of packed bytes. -/
def packedLen (w h : Nat) : Nat := h * bytesPerRow w

/-- The length of `varLen v`. -/
def varLenSize (v : Nat) : Nat := if v < 128 then 1 else if v < 2 ^ 14 then 2 else 3

/-- len(P) = 1 + len(VarLen(13 + nb)) + 12 + nb (R149). The check of R143 uses it, so that no payload is built that
cannot be sent (log 17). -/
def bitmapPayloadLen (w h : Nat) : Nat := 1 + varLenSize (Config.tlvLenBias + packedLen w h) + 12 + packedLen w h

/-- `BitmapPayload(r, g, b, x0, y0, w, h, pix)` (R149): tag, length, sub-type, colour, inclusive corners, bits. -/
def bitmapPayload (r g b : Byte) (x0 y0 w h : Nat) (pix : Pix) : List Byte :=
  [Config.tagBitmap] ++ varLen (Config.tlvLenBias + (pack pix w h).length) ++ [Config.subBitmap, r, g, b] ++
    le16 x0 ++ le16 y0 ++ le16 (x0 + w - 1) ++ le16 (y0 + h - 1) ++ pack pix w h

/-- The last part of BITMAP and PIXELS: InvalidParameter if len(P) > 249 (R143), else one packet. -/
def emitBitmap (seq : Half) (r g b : Byte) (x0 y0 w h : Nat) (pix : Pix) (s : State) : Outcome :=
  if bitmapPayloadLen w h > Config.drawPayloadMax then raise .invalidParameter s
  else emit [drawPkt seq (bitmapPayload r g b x0 y0 w h pix)] s

/-- The pixel at row r, column c of a matrix held one byte per pixel, row-major (R150). -/
def matrixPix (m : List Byte) (w : Nat) : Pix := fun r c => m.getD (r * w + c) 0x00 == 0x01

/-- Is a matrix byte a pixel (R150, D24)? -/
def isPixelByte (b : Byte) : Bool := b == 0x00 || b == 0x01

/-- BITMAP seq, r, g, b, x0, y0, w, h, addr (R150): five checks, in order, each InvalidParameter. -/
def execBitmap (seq : Half) (r g b : Byte) (x0 y0 w h addr : Half) (s : State) : Outcome :=
  if w.toNat = 0 ∨ h.toNat = 0 then raise .invalidParameter s
  else if x0.toNat + w.toNat - 1 > 65535 ∨ y0.toNat + h.toNat - 1 > 65535 then raise .invalidParameter s
  else
    withRange addr.toNat (w.toNat * h.toNat) s <|
      withBytes addr.toNat (w.toNat * h.toNat) s fun m =>
        if m.all isPixelByte then
          emitBitmap seq r g b x0.toNat y0.toNat w.toNat h.toNat (matrixPix m w.toNat) s
        else raise .invalidParameter s

/-! ### Pixels (R151, R152) -/

/-- The points of a byte list, four bytes each: x LE16, y LE16 (R152). -/
def points : List Byte → List (Nat × Nat)
  | a0 :: a1 :: b0 :: b1 :: bs => ((ofLE16 a0 a1).toNat, (ofLE16 b0 b1).toNat) :: points bs
  | _ => []

/-- The least of a non-empty list of numbers. -/
def leastOf : List Nat → Nat
  | [] => 0
  | [v] => v
  | v :: vs => min v (leastOf vs)

/-- The greatest of a non-empty list of numbers. -/
def greatestOf : List Nat → Nat
  | [] => 0
  | [v] => v
  | v :: vs => max v (greatestOf vs)

/-- A set pixel of the bounding box: its point is in the set; duplicates count once (R151, D26). -/
def pointPix (ps : List (Nat × Nat)) (x0 y0 : Nat) : Pix := fun r c => ps.contains (x0 + c, y0 + r)

/-- A point set's packet: its tight bounding box, then as BITMAP (R151, R152). -/
def emitPoints (seq : Half) (r g b : Byte) (ps : List (Nat × Nat)) (s : State) : Outcome :=
  let x0 := leastOf (ps.map Prod.fst)
  let x1 := greatestOf (ps.map Prod.fst)
  let y0 := leastOf (ps.map Prod.snd)
  let y1 := greatestOf (ps.map Prod.snd)
  emitBitmap seq r g b x0 y0 (x1 - x0 + 1) (y1 - y0 + 1) (pointPix ps x0 y0) s

/-- PIXELS seq, r, g, b, addr, count (R152). -/
def execPixels (seq : Half) (r g b : Byte) (addr count : Half) (s : State) : Outcome :=
  withRange addr.toNat (4 * count.toNat) s <|
    if count.toNat = 0 then raise .emptyPointSet s
    else
      withBytes addr.toNat (4 * count.toNat) s fun bs => emitPoints seq r g b (points bs) s

end Sys2Proof.Machine
end

