-- ==== Sys2Proof/Machine/Dispatch.lean ====
section
/-! DEFINITION. exec: the meaning of each command, one arm per constructor (30_encoding.md R65). -/

namespace Sys2Proof.Machine

def exec (i : Instr) (s : State) : Host.Outcome State Fault Refusal :=
  match i with
  | .ckclr => Sys2Proof.Machine.execCkclr s
  | .ckfeed addr len => Sys2Proof.Machine.execCkfeed addr len s
  | .cktrail => Sys2Proof.Machine.execCktrail s
  | .sum8 addr len => Sys2Proof.Machine.execSum8 addr len s
  | .hisum addr len => Sys2Proof.Machine.execHisum addr len s
  | .ckpair addr len => Sys2Proof.Machine.execCkpair addr len s
  | .pktReset => Sys2Proof.Machine.execPktReset s
  | .pktReady => Sys2Proof.Machine.execPktReady s
  | .pktUc => Sys2Proof.Machine.execPktUc s
  | .pktBright level => Sys2Proof.Machine.execPktBright level s
  | .chunk addr len index => Sys2Proof.Machine.execChunk addr len index s
  | .uploadSeq addr len => Sys2Proof.Machine.execUploadSeq addr len s
  | .fillrect seq r g b x0 y0 x1 y1 => Sys2Proof.Machine.execFillrect seq r g b x0 y0 x1 y1 s
  | .bitmap seq r g b x0 y0 w h addr => Sys2Proof.Machine.execBitmap seq r g b x0 y0 w h addr s
  | .pixels seq r g b addr count => Sys2Proof.Machine.execPixels seq r g b addr count s
  | .varlen v => Sys2Proof.Machine.execVarlen v s

end Sys2Proof.Machine
end

