-- ==== Sys2Proof/Machine/HostPort.lean ====
section
/-! DEFINITION. The host's side of the block: the register map (10_state.md R22 to R33), the access rules of IBUF and the
OUT window (20_memory.md R41 to R44, R50), and block reset (70_reset_and_hazards.md R190). -/

namespace Sys2Proof.Machine

/-! ### Access widths (R33, R50, D37) -/

/-- Is the offset one of CMDBUF's, 0x20..0x2F (R22)? -/
def isCmdbufOffset (offset : Byte) : Bool := decide (0x20 ≤ offset.toNat) && decide (offset.toNat < 0x30)

/-- The accesses R33 allows in the register space: 8 bits in CMDBUF, 32 bits at word-aligned offsets elsewhere (log 14). -/
def regAccessOk (width : Width) (offset : Byte) : Bool :=
  if isCmdbufOffset offset then width == .w8 else width == .w32 && decide (offset.toNat % 4 = 0)

/-! ### Reads: no side effects (R50) -/

/-- A register's word by offset (R22). Write-only and reserved offsets, and CMDBUF, read 0 (R29 to R32). -/
def State.regWord (s : State) (offset : Byte) : Word :=
  match offset.toNat with
  | 0x00 => s.statusWord
  | 0x04 => s.accWord
  | 0x08 => s.resultWord
  | 0x0C => s.outqCountWord
  | 0x10 => s.outHeadLenWord
  | _ => 0

/-- A byte as the host's word: zero-extended (log 15). -/
def byteWord (b : Byte) : Word := b.setWidth 32

/-- The value a host read returns, or the model fault it meets (R33, R43, R44). -/
def hostRead (r : HostRead) (s : State) : Except Fault Word :=
  match r with
  | .reg width offset => if regAccessOk width offset then .ok (s.regWord offset) else .error .badHostAccess
  | .ibuf width addr =>
    if width == .w8 then
      match Memory.read s.ibuf addr.toNat with
      | some b => .ok (byteWord b)
      | none => .error .unwrittenRead
    else .error .badHostAccess
  | .out width index =>
    if width == .w8 then
      match (s.outq.headD [])[index.toNat]? with
      | some b => .ok (byteWord b)
      | none => .error .outRangeRead
    else .error .badHostAccess

/-! ### Writes -/

/-- The low byte of a value written (log 15). -/
def lowByte (v : Word) : Byte := v.extractLsb' 0 8

/-- OUT_POP (R29): the head frame goes; no effect on an empty queue. -/
def State.popped (s : State) : State := { s with outq := s.outq.tail }

/-- CMD_GO (R30): CMDBUF with its marks is copied into LATCH and PENDING set; a second start is a host hazard (R194). -/
def cmdGo (s : State) : Outcome :=
  if s.pending then .fault .hostHazard else .next { s with latch := some s.cmdbuf, pending := true }

/-- A register write of an allowed width (R22, R29 to R32): OUT_POP, CMD_GO and CMDBUF act; all others are ignored. -/
def regWrite (offset : Byte) (value : Word) (s : State) : Outcome :=
  if isCmdbufOffset offset then
    .next { s with cmdbuf := Memory.write s.cmdbuf (offset.toNat - 0x20) (lowByte value) }
  else if offset.toNat = 0x14 then .next s.popped
  else if offset.toNat = 0x18 then cmdGo s
  else .next s

/-- An IBUF write (R41), a host hazard while a command is pending (R194). -/
def ibufWrite (addr : Half) (value : Word) (s : State) : Outcome :=
  if s.pending then .fault .hostHazard
  else .next { s with ibuf := Memory.write s.ibuf addr.toNat (lowByte value) }

/-- A host write (R50): the width is checked first (log 15). -/
def hostWrite (w : HostWrite) (s : State) : Outcome :=
  match w with
  | .reg width offset value => if regAccessOk width offset then regWrite offset value s else .fault .badHostAccess
  | .ibuf width addr value => if width == .w8 then ibufWrite addr value s else .fault .badHostAccess
  | .out width _ _ => if width == .w8 then .next s else .fault .badHostAccess

/-! ### Block reset (R190, R191) -/

/-- Every piece of the block's state at its reset value; the parameters and the FAULT record stay (R37, R178), and so
does the host agent, which is not the block's (log 5). -/
def State.blockReset (s : State) : State :=
  { State.reset with fault := s.fault, hostPlan := s.hostPlan, hostSeen := s.hostSeen }

/-! ### One host action (R53) -/

/-- The host notes something it has got. -/
def State.noted (s : State) (x : HostSeen) : State := { s with hostSeen := s.hostSeen ++ [x] }

/-- One atomic host action. A read leaves the block as it was (R50). -/
def hostAct (a : HostAction) (s : State) : Outcome :=
  match a with
  | .read r =>
    match hostRead r s with
    | .ok v => .next (s.noted (.word v))
    | .error f => .fault f
  | .write w => hostWrite w s
  | .blockReset => .next s.blockReset

/-- `POP` (R44, R69): the head frame is read whole, noted as one frame, and popped (log 16). -/
def hostPop (s : State) : Outcome := .next ((s.noted (.frame (s.outq.headD []))).popped)

/-- `CHECK ERR = e` (R69). -/
def hostCheck (e : Byte) (s : State) : Outcome := .next (s.noted (.checked (s.err == e)))

end Sys2Proof.Machine
end

