-- ==== Sys2Proof/Machine/Block.lean ====
section
/-! DEFINITION. The two agents' moves (00_scope.md R4, 20_memory.md R53): the block's step, the host's next event, and the
recording of a model fault (60_exceptions.md R178). -/

namespace Sys2Proof.Machine

/-- The pending command (R61): decode the latched descriptor and execute it, in one step. -/
def runPending (s : State) : Outcome :=
  match fetch s with
  | .unwritten => .fault .unwrittenRead
  | .illegal => raise .illegalCommand s
  | .command i => exec i s

/-- The block's step: the pending command, or nothing while idle (R185, R192; log 1). -/
def blockStep (s : State) : Outcome := if s.pending then runPending s else .next s

/-- The next move of the interleaving (R53): what the host's plan says, and the block's step when the plan is empty
(log 5). -/
def move (s : State) : Outcome :=
  match s.hostPlan with
  | [] => blockStep s
  | .block :: plan => blockStep { s with hostPlan := plan }
  | .act a :: plan => hostAct a { s with hostPlan := plan }
  | .pop :: plan => hostPop { s with hostPlan := plan }
  | .check e :: plan => hostCheck e { s with hostPlan := plan }
  | .poll :: plan =>
    if s.pending then blockStep s
    else .next (({ s with hostPlan := plan } : State).noted (.word s.statusWord))

/-- R178: a model fault is written into the FAULT record, and nothing else changes (log 3). -/
def recordFault (s : State) (o : Outcome) : Outcome :=
  match o with
  | .next t => .next t
  | .fault f => .next { s with fault := some f }
  | .refused r => .refused r

/-- Once FAULT is set the run has stopped (R178). -/
def guarded (s : State) (o : Outcome) : Outcome :=
  match s.fault with
  | none => recordFault s o
  | some f => .fault f

/-- LATCH holding a 16-byte descriptor, every byte written. -/
def latchOf (bytes : List Byte) : Memory := (List.range bytes.length).zip bytes

end Sys2Proof.Machine
end

