-- ==== Sys2Proof/Machine/Step.lean ====
section
/-! DEFINITION. One step of the machine, and the placing of a descriptor where the block fetches it. -/

namespace Sys2Proof.Machine

/-- One atomic move of the interleaving (20_memory.md R53); after a recorded model fault, none (R178). -/
def step (s : State) : Host.Outcome State Fault Refusal := guarded s (move s)

/-- The state with a descriptor latched as CMD_GO latches it (R30), PENDING set, no recorded fault, and the block to move
next: the following step executes it (log 13). -/
def State.withFetchWord (s : State) (nbits w : Nat) : State :=
  { s with
    latch := some (latchOf (descriptorBytes Config.cmdbufSize (w % 2 ^ nbits)))
    pending := true
    fault := none
    hostPlan := [] }

end Sys2Proof.Machine
end

