-- ==== Sys2Proof/Machine/Program.lean ====
section
/-! DEFINITION. What the lines of a program stand for: lists of host events (30_encoding.md R68, R69). -/

namespace Sys2Proof.Machine

/-- The host writes CMDBUF byte `k` (R31). -/
def writeCmdbuf (k : Nat) (b : Byte) : HostEvent :=
  .act (.write (.reg .w8 (BitVec.ofNat 8 (0x20 + k)) (byteWord b)))

/-- The host writes CMD_GO (R30); any value does. -/
def writeCmdGo : HostEvent := .act (.write (.reg .w32 0x18 0))

/-- The host writes OUT_POP (R29); any value does. -/
def writeOutPop : HostEvent := .act (.write (.reg .w32 0x14 0))

/-- A command line (R68): write the descriptor bytes 0..LEN−1 to CMDBUF, write CMD_GO, poll until PENDING = 0. -/
def commandEvents (i : Instr) : List HostEvent :=
  ((List.range (encode i).length).zip (encode i)).map (fun kb => writeCmdbuf kb.1 kb.2) ++ [writeCmdGo, .poll]

/-- `IBW addr, b0, b1, ...` (R69). -/
def ibwEvents (addr : Nat) (bytes : List Byte) : List HostEvent :=
  ((List.range bytes.length).zip bytes).map
    (fun kb => .act (.write (.ibuf .w8 (BitVec.ofNat 16 (addr + kb.1)) (byteWord kb.2))))

/-- The events of a line (R68, R69); none for a line an assembler must refuse. -/
def lineEvents (line : AsmLine) : Option (List HostEvent) :=
  if line.wellFormed then
    match line with
    | .cmd op operands => (assemble op operands).map commandEvents
    | .ibw addr bytes => some (ibwEvents addr (bytes.map (BitVec.ofNat 8)))
    | .pop => some [.pop]
    | .cksum addr len =>
      some (commandEvents .ckclr ++ commandEvents (.ckfeed (.ofNat 16 addr) (.ofNat 16 len)))
    | .check e => some [.check (.ofNat 8 e)]
  else none

/-- The events of a program; none if one of its lines has no encoding. -/
def programEvents : List AsmLine → Option (List HostEvent)
  | [] => some []
  | line :: lines =>
    match lineEvents line, programEvents lines with
    | some es, some rest => some (es ++ rest)
    | _, _ => none

end Sys2Proof.Machine
end

