-- ==== Sys2Proof/Safety.lean ====
section
/-! DEFINITION. The terms in which claims speak: how a command ends, what stands in IBUF, what is well formed in a state,
and when a run is at its end. They are written from the spec's rules, not from the operations of Machine/. -/

namespace Sys2Proof.Machine

/-- How an error ends a command (R174): STATUS only. -/
abbrev ErrorEnd (s : State) (code : Byte) : Outcome :=
  .next { s with err := code, sticky := true, pending := false }

/-- How a command that raised nothing ends (R175), on top of the writes made in `t`. -/
abbrev SuccessEnd (t : State) : Outcome := .next { t with err := 0x00, pending := false }

/-- A command that emits ends with its frames at the tail of OUTQ (R46, R175). -/
abbrev EmitEnd (s : State) (frames : List Frame) : Outcome := SuccessEnd { s with outq := s.outq ++ frames }

/-- A command's opcode byte and format, as its rule gives them (R63, R65). -/
abbrev EncodedAs (op : Opcode) (code : Byte) (format : Format) : Prop := op.code = code ∧ op.format = format

/-- `k` slots of OUTQ are free (R46). -/
abbrev Room (k : Nat) (s : State) : Prop := s.outq.length + k ≤ Config.outqCapacity

/-- The block is to move (R53, log 5), and moves on `s'`: the host has nothing planned, or polls until the pending command
ends, or its plan gives the block one step. -/
abbrev BlockTurn (s s' : State) : Prop :=
  (s.hostPlan = [] ∧ s' = s) ∨ (∃ plan, s.hostPlan = .poll :: plan ∧ s' = s) ∨
  (∃ plan, s.hostPlan = .block :: plan ∧ s' = { s with hostPlan := plan })

/-- A number as the `n` bytes of a little-endian field (R13, R64). -/
def littleEndian (n v : Nat) : List Byte := (List.range n).map fun k => BitVec.ofNat 8 (v / 256 ^ k)

/-- The bytes `bs` stand in IBUF from address `a`, all written (R43). -/
def IbufHolds (s : State) (a : Nat) (bs : List Byte) : Prop :=
  ∀ k, k < bs.length → Memory.read s.ibuf (a + k) = bs[k]?

/-- A byte of IBUF[a .. a+n−1] is unwritten (R43). -/
def IbufGap (s : State) (a n : Nat) : Prop := ∃ k, k < n ∧ Memory.read s.ibuf (a + k) = none

/-- A packet: bytes X, then c1 = Σ X mod 256, then c2 = Σ (X ‖ [c1]) div 256 mod 256 (R72, R82 with INCLUSIVE). -/
def dualChecked (X : List Byte) : Frame :=
  X ++ [BitVec.ofNat 8 (byteSum X), BitVec.ofNat 8 ((byteSum X + byteSum X % 256) / 256)]

/-- The draw packet of a payload (R142), with INCLUSIVE. -/
def drawFrame (seq : Half) (P : List Byte) : Frame :=
  dualChecked ([0xAA, 0x55, 0xFF, 0xFF, BitVec.ofNat 8 (P.length + 6)] ++ le16 seq.toNat ++
    [0x00, Config.drawFlag, Config.drawCmd] ++ P)

/-- The Bitmap payload of packed bits (R149). -/
def bitmapBytes (r g b : Byte) (x0 y0 x1 y1 : Nat) (bits : List Byte) : List Byte :=
  [Config.tagBitmap] ++ varLen (13 + bits.length) ++ [Config.subBitmap, r, g, b] ++ le16 x0 ++ le16 y0 ++ le16 x1 ++
    le16 y1 ++ bits

/-- The bytes of chunk `i` of `n` before the trailer, from the blob bytes its window covers (R121, R122). -/
def chunkBytes (i n : Nat) (covered : List Byte) : List Byte :=
  [0xAA, 0x55, 0xFF, 0xFF] ++ Config.chunkConstTail ++ [0xED] ++ [BitVec.ofNat 8 i, 0x00, 0x00] ++
    [BitVec.ofNat 8 i, 0x00, 0x00] ++ [BitVec.ofNat 8 n] ++ Config.chunkPli ++ covered ++
    List.replicate (196 - covered.length) 0x00

/-- `ceil(L / 196)` (R12, R120). -/
def chunksOf (L : Nat) : Nat := (L + 195) / 196

/-- A frame as R70 and R28 have it: MAGIC first, at least 16 bytes, a length OUT_HEAD_LEN can show. -/
def FrameOk (f : Frame) : Prop := f.take 4 = [0xAA, 0x55, 0xFF, 0xFF] ∧ 16 ≤ f.length ∧ f.length ≤ 65535

/-- What holds at reset, and after every step from any state in which it holds. -/
structure State.Inv (s : State) : Prop where
  /-- IBUF is in canonical form and inside its size (R41) -/
  ibuf_wf : Memory.wf Config.ibufSize s.ibuf = true
  /-- CMDBUF is in canonical form and inside its size (R31) -/
  cmdbuf_wf : Memory.wf Config.cmdbufSize s.cmdbuf = true
  /-- LATCH is in canonical form and inside its size (R35) -/
  latch_wf : ∀ m, s.latch = some m → Memory.wf Config.cmdbufSize m = true
  /-- a pending command has a latched descriptor (R21, R30) -/
  latched : s.pending = true → s.latch.isSome = true
  /-- ERR holds only the values of R170 -/
  err_known : s.err.toNat ≤ 5
  /-- STICKY = 0 only if no command since reset has raised an error (R176) -/
  sticky_err : s.sticky = false → s.err = 0x00
  /-- result bytes at or beyond RESLEN are 0x00 (R25) -/
  res0_unused : s.result.resLen.val ≤ 0 → s.result.res0 = 0x00
  /-- as above -/
  res1_unused : s.result.resLen.val ≤ 1 → s.result.res1 = 0x00
  /-- as above -/
  res2_unused : s.result.resLen.val ≤ 2 → s.result.res2 = 0x00
  /-- OUTQ never exceeds its capacity (R45) -/
  outq_room : s.outq.length ≤ Config.outqCapacity
  /-- every frame is a packet (R70, R71) -/
  outq_frames : ∀ f, f ∈ s.outq → FrameOk f

/-- A run is at its end only with no command pending, nothing left of the host's plan and no model fault (R178, D7). -/
def State.Final (s : State) : Prop := s.pending = false ∧ s.hostPlan = [] ∧ s.fault = none

end Sys2Proof.Machine
end

