-- ==== Sys2Proof/Certificates/Slice0/Obligations.lean ====
section
/-! DEFINITION. The statements for the provers. Each docstring names the rules of spec/ it rests on. -/

open Sys2Proof Sys2Proof.Machine

/-! ### Descriptors (30_encoding.md) -/

/-- R60 to R65: decoding the descriptor of any command, whatever bytes follow it, gives that command with every operand at
its value, and the bytes that follow. -/
def Obligations.DecodeOfEncodeIsTheCommand : Prop :=
  ∀ (i : Instr) (rest : List Byte), decode (encode i ++ rest) = .ok (i, rest)

/-- R60 to R65: bytes that decode to a command are that command's descriptor, followed by what is left; so no two
descriptors of LEN(op) bytes stand for one command, and no byte of a descriptor is dropped. -/
def Obligations.DecodedBytesAreTheDescriptor : Prop :=
  ∀ (bs rest : List Byte) (i : Instr), decode bs = .ok (i, rest) → bs = encode i ++ rest

/-- R62: LEN(op) is the length of the opcode's format (R63), whatever the operands; and of the latched bytes only those
below LEN(op) matter: two latches that agree on them decode alike, whatever is written or unwritten above. -/
def Obligations.DescriptorLengthIsTheOpcodes : Prop :=
  (∀ i : Instr, (encode i).length = i.opcode.length) ∧
  Opcode.all.map Opcode.length = [1, 5, 1, 5, 5, 5, 1, 1, 1, 2, 7, 5, 14, 16, 10, 4] ∧
  ∀ (m m' : Memory) (op : Opcode), Memory.read m 0 = some op.code →
    (∀ k, k < op.length → Memory.read m' k = Memory.read m k) → fetchFrom m' = fetchFrom m

/-- R66: the illegal opcode values are exactly those listed, 240 of them; a pending descriptor with one of them raises
IllegalCommand whatever its other bytes are, under each plan of the host with the block to move (log 5); no operand value makes an encoding illegal; and no command's execution ends
with the code of IllegalCommand. -/
def Obligations.IllegalOpcodesRaiseIllegalCommand : Prop :=
  (∀ b : Byte, Opcode.ofByte b = none ↔
    (b.toNat = 0x00 ∨ (0x07 ≤ b.toNat ∧ b.toNat ≤ 0x0F) ∨ (0x14 ≤ b.toNat ∧ b.toNat ≤ 0x1F) ∨
      (0x22 ≤ b.toNat ∧ b.toNat ≤ 0x2F) ∨ (0x33 ≤ b.toNat ∧ b.toNat ≤ 0x37) ∨ 0x39 ≤ b.toNat)) ∧
  ((List.range 256).filter (fun n => (Opcode.ofByte (BitVec.ofNat 8 n)).isNone)).length = 240 ∧
  (∀ (s s' : State) (m : Memory) (b : Byte), s.fault = none → s.pending = true → s.latch = some m →
    Memory.read m 0 = some b → Opcode.ofByte b = none → BlockTurn s s' → step s = ErrorEnd s' 0x05) ∧
  (∀ (op : Opcode) (bs : List Byte), op.length ≤ bs.length + 1 →
    ∃ i rest, i.opcode = op ∧ decode (op.code :: bs) = .ok (i, rest)) ∧
  (∀ (i : Instr) (s t : State), exec i s = .next t → t = s ∨ t.err ≠ 0x05)

/-- R63 and R65, on words written out from them: the opcode bytes, and where each format has its operands. -/
def Obligations.SampleDescriptorsDecode : Prop :=
  decode [0x01] = .ok (.ckclr, []) ∧
  decode [0x02, 0xFF, 0xFF, 0x02, 0x00] = .ok (.ckfeed 0xFFFF 2, []) ∧
  decode [0x13, 0x05] = .ok (.pktBright 5, []) ∧
  decode [0x20, 0x00, 0xFF, 0x00, 0x02, 0xE7, 0x03] = .ok (.chunk 0xFF00 0x0200 999, []) ∧
  decode [0x30, 0x34, 0x12, 0x01, 0x02, 0x03, 0x05, 0x00, 0x06, 0x00, 0x5F, 0x00, 0x7F, 0x01] =
    .ok (.fillrect 0x1234 1 2 3 5 6 95 383, []) ∧
  decode [0x31, 0x01, 0x00, 0x00, 0xFF, 0x00, 0x0A, 0x00, 0x14, 0x00, 0x09, 0x00, 0x02, 0x00, 0x00, 0x02] =
    .ok (.bitmap 1 0 255 0 10 20 9 2 0x200, []) ∧
  decode [0x32, 0x34, 0x12, 0x01, 0x02, 0x03, 0x00, 0x01, 0x03, 0x00] = .ok (.pixels 0x1234 1 2 3 0x100 3, []) ∧
  decode [0x38, 0xFF, 0xFF, 0x1F] = .ok (.varlen 2097151, [])

/-- R61: when the latched bytes decode to a command, the step with the block to move is that command's execution on the
latched state (the host's plan moved on by its `block` item; while the host polls, the plan stays). A model fault of the
execution is written into FAULT (R178). -/
def Obligations.StepRunsTheDecodedCommand : Prop :=
  ∀ (s s' : State) (m : Memory) (bs : List Byte) (i : Instr),
    s.fault = none → s.pending = true → s.latch = some m →
    decode bs = .ok (i, []) → (∀ k, k < bs.length → Memory.read m k = bs[k]?) →
    ((s.hostPlan = [] ∧ s' = s) ∨ (∃ plan, s.hostPlan = .poll :: plan ∧ s' = s) ∨
      (∃ plan, s.hostPlan = .block :: plan ∧ s' = { s with hostPlan := plan })) →
    (∀ t, exec i s' = .next t → step s = .next t) ∧
    (∀ f, exec i s' = .fault f → step s = .next { s with fault := some f })

/-- R61 with R178: a descriptor byte below LEN(op) that is unwritten is a model fault, under each plan of the host
with the block to move (log 5): the step records UNWRITTEN_READ and changes nothing else, and no step follows (log 3). -/
def Obligations.UnwrittenDescriptorByteFaults : Prop :=
  ∀ (s s' : State) (m : Memory), s.fault = none → s.pending = true → s.latch = some m → BlockTurn s s' →
    (Memory.read m 0 = none ∨
      ∃ op k, Memory.read m 0 = some (Opcode.code op) ∧ k < op.length ∧ Memory.read m k = none) →
    step s = .next { s with fault := some .unwrittenRead } ∧
    step { s with fault := some .unwrittenRead } = .fault .unwrittenRead

/-- R68 and R69, what an assembler makes of a line, in events of the host's plan, which are the model's form of host actions
(log 5). A command line whose numbers are too few, too many or too wide for the fields of R65 has no encoding. Every other
command line stands for the command whose descriptor is the opcode byte and then the numbers themselves, each in the bytes of
its field, low byte first. IBW stands for one IBUF write per byte, in order; CKSUM for CKCLR and then CKFEED. POP and CHECK
stand for one event each, as a command line's poll of STATUS is one event: R68 and R69 give them as host reads and a write, and
taking each as one is the model's choice (log 16). That IBW past IBUF's end or with a number above 255, and CHECK with e above
255, have no events is the model's choice too (log 19). -/
def Obligations.AssemblerRefusesWideOperands : Prop :=
  (∀ v : Nat, 255 < v → lineEvents (.cmd .pktBright [v]) = none) ∧
  (∀ a l : Nat, 65535 < a ∨ 65535 < l → lineEvents (.cmd .ckfeed [a, l]) = none) ∧
  (∀ v : Nat, 2 ^ 24 - 1 < v → lineEvents (.cmd .varlen [v]) = none) ∧
  Opcode.all.map Opcode.operandWidths = [[], [16, 16], [], [16, 16], [16, 16], [16, 16], [], [], [], [8], [16, 16, 16],
    [16, 16], [16, 8, 8, 8, 16, 16, 16, 16], [16, 8, 8, 8, 16, 16, 16, 16, 16], [16, 8, 8, 8, 16, 16], [24]] ∧
  (∀ (widths vs : List Nat), operandsFit widths vs = true ↔
    vs.length = widths.length ∧ ∀ (k w v : Nat), widths[k]? = some w → vs[k]? = some v → v < 2 ^ w) ∧
  (∀ (op : Opcode) (vs : List Nat), operandsFit op.operandWidths vs = false → lineEvents (.cmd op vs) = none) ∧
  (∀ (op : Opcode) (vs : List Nat), operandsFit op.operandWidths vs = true →
    ∃ i, assemble op vs = some i ∧ i.opcode = op ∧ lineEvents (.cmd op vs) = some (commandEvents i) ∧
      encode i = op.code :: ((op.operandWidths.zip vs).flatMap fun field => littleEndian (field.1 / 8) field.2)) ∧
  (∀ (addr : Nat) (bytes : List Nat), addr + bytes.length ≤ 65536 → (∀ b, b ∈ bytes → b ≤ 255) →
    ∃ es, lineEvents (.ibw addr bytes) = some es ∧ es.length = bytes.length ∧
      ∀ k b, bytes[k]? = some b → ∃ (a : Half) (v : Word), a.toNat = addr + k ∧ v.toNat = b ∧
        es[k]? = some (.act (.write (.ibuf .w8 a v)))) ∧
  (∀ (addr : Nat) (bytes : List Nat), (65536 < addr + bytes.length ∨ ∃ b, b ∈ bytes ∧ 255 < b) →
    lineEvents (.ibw addr bytes) = none) ∧
  lineEvents .pop = some [.pop] ∧
  (∀ addr len : Half, lineEvents (.cksum addr.toNat len.toNat) =
    some (commandEvents .ckclr ++ commandEvents (.ckfeed addr len))) ∧
  (∀ a l : Nat, 65535 < a ∨ 65535 < l → lineEvents (.cksum a l) = none) ∧
  (∀ e : Byte, lineEvents (.check e.toNat) = some [.check e]) ∧
  (∀ e : Nat, 255 < e → lineEvents (.check e) = none)

/-- R53, R68 and R69 with R30 and R31, in the form of the host's plan (log 5). Each item is one step: a host action is done
on the state whose plan has moved on, and a model fault it meets is recorded with the plan kept (log 3); POP takes the head
frame whole, or notes an empty one, and CHECK compares ERR (log 16); the poll of STATUS ends when PENDING = 0. And so, from an
idle block, the host actions of a command line leave the line's descriptor in CMDBUF and LATCH and the command pending, with
the host polling, and change nothing else. -/
def Obligations.CommandLineStartsItsCommand : Prop :=
  (∀ (s : State) (a : HostAction) (plan : List HostEvent), s.fault = none → s.hostPlan = .act a :: plan →
    (∀ t, hostAct a { s with hostPlan := plan } = .next t → step s = .next t) ∧
    (∀ f, hostAct a { s with hostPlan := plan } = .fault f → step s = .next { s with fault := some f }) ∧
    (∀ r, hostAct a { s with hostPlan := plan } ≠ .refused r)) ∧
  (∀ (s : State) (plan : List HostEvent), s.fault = none → s.hostPlan = .pop :: plan →
    (∀ f q, s.outq = f :: q →
      step s = .next { s with hostPlan := plan, outq := q, hostSeen := s.hostSeen ++ [.frame f] }) ∧
    (s.outq = [] → step s = .next { s with hostPlan := plan, hostSeen := s.hostSeen ++ [.frame []] })) ∧
  (∀ (s : State) (e : Byte) (plan : List HostEvent), s.fault = none → s.hostPlan = .check e :: plan →
    (s.err = e → step s = .next { s with hostPlan := plan, hostSeen := s.hostSeen ++ [.checked true] }) ∧
    (s.err ≠ e → step s = .next { s with hostPlan := plan, hostSeen := s.hostSeen ++ [.checked false] })) ∧
  (∀ (s : State) (plan : List HostEvent), s.fault = none → s.hostPlan = .poll :: plan → s.pending = false →
    ∃ v : Word, v.toNat = 2 * s.sticky.toNat + 256 * s.err.toNat ∧
      step s = .next { s with hostPlan := plan, hostSeen := s.hostSeen ++ [.word v] }) ∧
  ∀ (s : State) (i : Instr) (rest : List HostEvent),
    s.fault = none → s.pending = false → s.hostPlan = commandEvents i ++ rest →
    ∃ m : Memory, (∀ k, k < (encode i).length → Memory.read m k = (encode i)[k]?) ∧
      (∀ k, (encode i).length ≤ k → Memory.read m k = Memory.read s.cmdbuf k) ∧
      Host.Core.run Sys2Proof.core ((encode i).length + 1) s =
        .next { s with cmdbuf := m, latch := some m, pending := true, hostPlan := .poll :: rest }

/-! ### Checksum generator (40_checksum.md) -/

/-- R80, R81 and R82: the checksum functions on every byte list, the empty one included, and the trailer for either span,
with INCLUSIVE the block's. -/
def Obligations.ChecksumFunctionsMeetTheirFormulas : Prop :=
  ∀ X : List Byte,
    (sumMod256 X).toNat = byteSum X % 256 ∧ (highByteOfSum X).toNat = byteSum X / 256 % 256 ∧
    sumMod256 [] = 0 ∧ highByteOfSum [] = 0 ∧
    trailerWith .inclusive X = [sumMod256 X, highByteOfSum (X ++ [sumMod256 X])] ∧
    trailerWith .exclusive X = [sumMod256 X, highByteOfSum X] ∧
    trailer X = trailerWith .inclusive X

/-- R83: checksum 2 in closed form for both spans, and that they agree exactly when c1 < 128. -/
def Obligations.Checksum2ClosedForm : Prop :=
  ∀ X : List Byte,
    (checksum2 .inclusive X).toNat =
      (byteSum X / 256 + (if 128 ≤ byteSum X % 256 then 1 else 0)) % 256 ∧
    (checksum2 .exclusive X).toNat = byteSum X / 256 % 256 ∧
    (checksum2 .inclusive X = checksum2 .exclusive X ↔ byteSum X % 256 < 128)

/-- R84: what a 16-bit accumulator of the sum gives: both functions, and the INCLUSIVE checksum 2. -/
def Obligations.SixteenBitAccumulatorSuffices : Prop :=
  ∀ (X : List Byte) (A : Half), A.toNat = byteSum X % 65536 →
    (sumMod256 X).toNat = A.toNat % 256 ∧ (highByteOfSum X).toNat = A.toNat / 256 ∧
    (checksum2 .inclusive X).toNat = (A.toNat + A.toNat % 256) % 65536 / 256

/-- R85: CKCLR. -/
def Obligations.CkclrClearsAcc : Prop :=
  EncodedAs .ckclr 0x01 .f0 ∧ ∀ s : State, exec .ckclr s = SuccessEnd { s with acc := 0x0000 }

/-- R86: CKFEED adds the bytes of its range, wrapping at 65536; a length of 0 leaves ACC as it was; a range not in range
raises InvalidParameter; an unwritten byte is a model fault; and feeding a range in two pieces ends in the same state as
feeding it whole. -/
def Obligations.CkfeedAddsItsRange : Prop :=
  EncodedAs .ckfeed 0x02 .fr ∧
  (∀ (s : State) (addr len : Half) (bs : List Byte), addr.toNat + len.toNat ≤ 65536 →
    bs.length = len.toNat → IbufHolds s addr.toNat bs →
    exec (.ckfeed addr len) s = SuccessEnd { s with acc := BitVec.ofNat 16 ((s.acc.toNat + byteSum bs) % 65536) }) ∧
  (∀ (s : State) (addr : Half), exec (.ckfeed addr 0) s = SuccessEnd s) ∧
  (∀ (s : State) (addr len : Half), 65536 < addr.toNat + len.toNat → exec (.ckfeed addr len) s = ErrorEnd s 0x01) ∧
  (∀ (s : State) (addr len : Half), addr.toNat + len.toNat ≤ 65536 → IbufGap s addr.toNat len.toNat →
    exec (.ckfeed addr len) s = .fault .unwrittenRead) ∧
  (∀ (s : State) (addr addr' n n' len : Half) (bs : List Byte), addr.toNat + len.toNat ≤ 65536 →
    bs.length = len.toNat → IbufHolds s addr.toNat bs →
    addr'.toNat = addr.toNat + n.toNat → len.toNat = n.toNat + n'.toNat →
    ∃ t u, exec (.ckfeed addr n) s = .next t ∧ exec (.ckfeed addr' n') t = .next u ∧
      exec (.ckfeed addr len) s = .next u)

/-- R87: CKTRAIL writes c1 and the INCLUSIVE c2 of the accumulator; and after CKCLR and CKFEED of bytes X it writes
Trailer(X). -/
def Obligations.CktrailGivesTheTrailerOfTheFedBytes : Prop :=
  EncodedAs .cktrail 0x03 .f0 ∧
  (∀ s : State, exec .cktrail s = SuccessEnd { s with
    result := ⟨BitVec.ofNat 8 s.acc.toNat,
      BitVec.ofNat 8 ((s.acc.toNat + s.acc.toNat % 256) % 65536 / 256), 0x00, 2⟩ }) ∧
  (∀ (s : State) (addr len : Half) (X : List Byte), addr.toNat + len.toNat ≤ 65536 → X.length = len.toNat →
    IbufHolds s addr.toNat X →
    ∃ t u v, exec .ckclr s = .next t ∧ exec (.ckfeed addr len) t = .next u ∧ exec .cktrail u = .next v ∧
      [v.result.res0, v.result.res1] = trailer X ∧ v.acc = u.acc)

/-- R88: SUM8 writes sumMod256 of its range and leaves ACC; a length of 0 gives 0; errors and faults as stated there. -/
def Obligations.Sum8WritesTheSumMod256 : Prop :=
  EncodedAs .sum8 0x04 .fr ∧
  (∀ (s : State) (addr len : Half) (bs : List Byte), addr.toNat + len.toNat ≤ 65536 →
    bs.length = len.toNat → IbufHolds s addr.toNat bs →
    exec (.sum8 addr len) s = SuccessEnd { s with result := ⟨BitVec.ofNat 8 (byteSum bs % 256), 0x00, 0x00, 1⟩ }) ∧
  (∀ (s : State) (addr : Half), exec (.sum8 addr 0) s = SuccessEnd { s with result := ⟨0x00, 0x00, 0x00, 1⟩ }) ∧
  (∀ (s : State) (addr len : Half), 65536 < addr.toNat + len.toNat → exec (.sum8 addr len) s = ErrorEnd s 0x01) ∧
  (∀ (s : State) (addr len : Half), addr.toNat + len.toNat ≤ 65536 → IbufGap s addr.toNat len.toNat →
    exec (.sum8 addr len) s = .fault .unwrittenRead)

/-- R89: HISUM writes highByteOfSum of its range. -/
def Obligations.HisumWritesTheHighByte : Prop :=
  EncodedAs .hisum 0x05 .fr ∧
  (∀ (s : State) (addr len : Half) (bs : List Byte), addr.toNat + len.toNat ≤ 65536 →
    bs.length = len.toNat → IbufHolds s addr.toNat bs →
    exec (.hisum addr len) s =
      SuccessEnd { s with result := ⟨BitVec.ofNat 8 (byteSum bs / 256 % 256), 0x00, 0x00, 1⟩ }) ∧
  (∀ (s : State) (addr : Half), exec (.hisum addr 0) s = SuccessEnd { s with result := ⟨0x00, 0x00, 0x00, 1⟩ }) ∧
  (∀ (s : State) (addr len : Half), 65536 < addr.toNat + len.toNat → exec (.hisum addr len) s = ErrorEnd s 0x01) ∧
  (∀ (s : State) (addr len : Half), addr.toNat + len.toNat ≤ 65536 → IbufGap s addr.toNat len.toNat →
    exec (.hisum addr len) s = .fault .unwrittenRead)

/-- R90: CKPAIR writes the two-byte trailer of its range. -/
def Obligations.CkpairWritesTheTrailer : Prop :=
  EncodedAs .ckpair 0x06 .fr ∧
  (∀ (s : State) (addr len : Half) (X : List Byte), addr.toNat + len.toNat ≤ 65536 →
    X.length = len.toNat → IbufHolds s addr.toNat X →
    exec (.ckpair addr len) s = SuccessEnd { s with
      result := ⟨BitVec.ofNat 8 (byteSum X), BitVec.ofNat 8 ((byteSum X + byteSum X % 256) / 256), 0x00, 2⟩ }) ∧
  (∀ (s : State) (addr : Half), exec (.ckpair addr 0) s = SuccessEnd { s with result := ⟨0x00, 0x00, 0x00, 2⟩ }) ∧
  (∀ (s : State) (addr len : Half), 65536 < addr.toNat + len.toNat → exec (.ckpair addr len) s = ErrorEnd s 0x01) ∧
  (∀ (s : State) (addr len : Half), addr.toNat + len.toNat ≤ 65536 → IbufGap s addr.toNat len.toNat →
    exec (.ckpair addr len) s = .fault .unwrittenRead)

/-! ### Packet framer (41_packet_framer.md) -/

/-- R100 to R106: PKT_RESET, PKT_READY and PKT_UC emit MAGIC and their literal tails, 16, 16 and 17 bytes, and change no
block state but OUTQ and STATUS. -/
def Obligations.FixedPacketsAreEmitted : Prop :=
  EncodedAs .pktReset 0x10 .f0 ∧ EncodedAs .pktReady 0x11 .f0 ∧ EncodedAs .pktUc 0x12 .f0 ∧
  ∀ s : State, Room 1 s →
    (∃ tail : List Byte, tail = Config.resetTail ∧ tail.length = 12 ∧
      exec .pktReset s = EmitEnd s [[0xAA, 0x55, 0xFF, 0xFF] ++ tail]) ∧
    (∃ tail : List Byte, tail = Config.readyTail ∧ tail.length = 12 ∧
      exec .pktReady s = EmitEnd s [[0xAA, 0x55, 0xFF, 0xFF] ++ tail]) ∧
    (∃ tail : List Byte, tail = Config.ucTail ∧ tail.length = 13 ∧
      exec .pktUc s = EmitEnd s [[0xAA, 0x55, 0xFF, 0xFF] ++ tail])

/-- R107 and R108: for each level 0..15 PKT_BRIGHT emits the literal 16-byte packet; a higher level raises
InvalidParameter, room or not. -/
def Obligations.BrightnessPacketIsLiteral : Prop :=
  EncodedAs .pktBright 0x13 .fb ∧
  ∀ (s : State) (level : Byte),
    (level.toNat ≤ 15 → Room 1 s →
      exec (.pktBright level) s = EmitEnd s [[0xAA, 0x55, 0xFF, 0xFF, 0x0A, 0x00, 0x04, 0x00, 0xC1, 0x02, 0x06, 0x02,
        0x00, level, BitVec.ofNat 8 ((0xD6 + level.toNat) % 256), 0x03]]) ∧
    (16 ≤ level.toNat → exec (.pktBright level) s = ErrorEnd s 0x01)

/-- R109: the coincidence of the literal bytes with the generic functions, and that byte 15 is not the INCLUSIVE c2. -/
def Obligations.BrightnessChecksumCoincidence : Prop :=
  ∀ level : Byte, level.toNat ≤ 15 →
    (brightPkt level)[14]? = some (sumMod256 ((brightPkt level).take 14)) ∧
    (brightPkt level)[15]? = some (highByteOfSum ((brightPkt level).take 14)) ∧
    checksum2 .inclusive ((brightPkt level).take 14) = 0x04

/-! ### Chunk codec (42_chunk_codec.md) -/

/-- R120 and R121: n = ceil(L/196); every window has 196 bytes; and the windows in order are the blob, whole, followed by
zero bytes only. -/
def Obligations.WindowsAreTheZeroPaddedBlob : Prop :=
  ∀ blob : List Byte, blob ≠ [] →
    196 * (chunkCount blob.length - 1) < blob.length ∧ blob.length ≤ 196 * chunkCount blob.length ∧
    (∀ i, i < chunkCount blob.length → (window blob i).length = 196) ∧
    (List.range (chunkCount blob.length)).flatMap (window blob) =
      blob ++ List.replicate (196 * chunkCount blob.length - blob.length) 0x00

/-- R130 with R122 and R127: when the checks pass, CHUNK reads the window's bytes only and emits the chunk packet of
layout L0 (D13, the spec's own decision) with the zero-padded window and the dual checksum. -/
def Obligations.ChunkEmitsItsWindow : Prop :=
  ∀ (s : State) (addr len index : Half) (covered : List Byte), Room 1 s →
    addr.toNat + len.toNat ≤ 65536 → 1 ≤ len.toNat → chunksOf len.toNat ≤ 255 → index.toNat < chunksOf len.toNat →
    covered.length = min 196 (len.toNat - 196 * index.toNat) →
    IbufHolds s (addr.toNat + 196 * index.toNat) covered →
    exec (.chunk addr len index) s =
      EmitEnd s [dualChecked (chunkBytes index.toNat (chunksOf len.toNat) covered)]

/-- R130 and R173: CHUNK's errors in their order: range, empty, too many chunks, index; and an unwritten byte of the
window is a model fault. -/
def Obligations.ChunkErrorsInOrder : Prop :=
  ∀ (s : State) (addr len index : Half),
    (65536 < addr.toNat + len.toNat → exec (.chunk addr len index) s = ErrorEnd s 0x01) ∧
    (addr.toNat + len.toNat ≤ 65536 → len.toNat = 0 → exec (.chunk addr len index) s = ErrorEnd s 0x02) ∧
    (addr.toNat + len.toNat ≤ 65536 → 49980 < len.toNat → exec (.chunk addr len index) s = ErrorEnd s 0x04) ∧
    (addr.toNat + len.toNat ≤ 65536 → 1 ≤ len.toNat → len.toNat ≤ 49980 → chunksOf len.toNat ≤ index.toNat →
      exec (.chunk addr len index) s = ErrorEnd s 0x01) ∧
    (addr.toNat + len.toNat ≤ 65536 → 1 ≤ len.toNat → len.toNat ≤ 49980 → index.toNat < chunksOf len.toNat →
      IbufGap s (addr.toNat + 196 * index.toNat) (min 196 (len.toNat - 196 * index.toNat)) →
      exec (.chunk addr len index) s = .fault .unwrittenRead)

/-- R128 and R132: a chunk packet has 233 + PLI_W bytes, with the payload from index 35 + PLI_W on, and its last two bytes
are the Trailer of all bytes before them. -/
def Obligations.ChunkPacketLengthAndSelfCheck : Prop :=
  ∀ (blob : List Byte) (i n : Nat), i < chunkCount blob.length →
    (chunkPkt (window blob i) i n).length = 233 + Config.pliW ∧
    ((chunkPkt (window blob i) i n).drop (35 + Config.pliW)).take 196 = window blob i ∧
    trailer ((chunkPkt (window blob i) i n).take (231 + Config.pliW)) =
      (chunkPkt (window blob i) i n).drop (231 + Config.pliW)

/-- R131: UPLOAD_SEQ emits Reset, Ready, the chunk packets in index order, and UploadComplete twice, in one step. -/
def Obligations.UploadSeqEmitsTheWholeList : Prop :=
  ∀ (s : State) (addr len : Half) (blob : List Byte),
    addr.toNat + len.toNat ≤ 65536 → 1 ≤ len.toNat → chunksOf len.toNat ≤ 255 →
    blob.length = len.toNat → IbufHolds s addr.toNat blob → Room (chunksOf len.toNat + 4) s →
    exec (.uploadSeq addr len) s = EmitEnd s
      ([[0xAA, 0x55, 0xFF, 0xFF] ++ Config.resetTail, [0xAA, 0x55, 0xFF, 0xFF] ++ Config.readyTail] ++
        (List.range (chunksOf len.toNat)).map (fun i =>
          dualChecked (chunkBytes i (chunksOf len.toNat) ((blob.drop (196 * i)).take 196))) ++
        [[0xAA, 0x55, 0xFF, 0xFF] ++ Config.ucTail, [0xAA, 0x55, 0xFF, 0xFF] ++ Config.ucTail])

/-- R131 and R129: UPLOAD_SEQ's errors in their order, and the model fault for a blob byte unwritten anywhere. -/
def Obligations.UploadSeqErrorsInOrder : Prop :=
  ∀ (s : State) (addr len : Half),
    (65536 < addr.toNat + len.toNat → exec (.uploadSeq addr len) s = ErrorEnd s 0x01) ∧
    (addr.toNat + len.toNat ≤ 65536 → len.toNat = 0 → exec (.uploadSeq addr len) s = ErrorEnd s 0x02) ∧
    (addr.toNat + len.toNat ≤ 65536 → 49980 < len.toNat → exec (.uploadSeq addr len) s = ErrorEnd s 0x04) ∧
    (addr.toNat + len.toNat ≤ 65536 → 1 ≤ len.toNat → len.toNat ≤ 49980 → IbufGap s addr.toNat len.toNat →
      exec (.uploadSeq addr len) s = .fault .unwrittenRead)

/-- R131 against R130, and R133: frame i + 2 of an upload is the frame CHUNK emits for index i from the same state, its
two index fields hold i and its total field holds n. -/
def Obligations.UploadChunksAreTheChunkCommands : Prop :=
  ∀ (s t : State) (addr len : Half),
    s.pending = true → exec (.uploadSeq addr len) s = .next t → t.pending = false → t.err = 0x00 →
    ∃ frames, t.outq = s.outq ++ frames ∧ frames.length = chunksOf len.toNat + 4 ∧
      ∀ i : Half, i.toNat < chunksOf len.toNat → ∃ f, frames[i.toNat + 2]? = some f ∧
        (f.drop 28).take 7 = [BitVec.ofNat 8 i.toNat, 0x00, 0x00, BitVec.ofNat 8 i.toNat, 0x00, 0x00,
          BitVec.ofNat 8 (chunksOf len.toNat)] ∧
        exec (.chunk addr len i) s = EmitEnd s [f]

/-- R134: a chunk's frame depends on IBUF only through the bytes its window covers. -/
def Obligations.ChunkDependsOnlyOnItsWindow : Prop :=
  ∀ (s t : State) (m : Memory) (addr len index : Half),
    (∀ k, k < min 196 (len.toNat - 196 * index.toNat) →
      Memory.read m (addr.toNat + 196 * index.toNat + k) = Memory.read s.ibuf (addr.toNat + 196 * index.toNat + k)) →
    exec (.chunk addr len index) s = .next t →
    exec (.chunk addr len index) { s with ibuf := m } = .next { t with ibuf := m }

/-! ### TLV draw encoder (43_draw_tlv.md) -/

/-- R141 with R140: VARLEN writes the shortest form into RESULT, and raises InvalidParameter from 2^21 on. -/
def Obligations.VarlenWritesTheShortestForm : Prop :=
  EncodedAs .varlen 0x38 .fv ∧
  ∀ (s : State) (v : Word24),
    (v.toNat < 128 → exec (.varlen v) s = SuccessEnd { s with result := ⟨BitVec.ofNat 8 v.toNat, 0x00, 0x00, 1⟩ }) ∧
    (128 ≤ v.toNat → v.toNat < 16384 → exec (.varlen v) s = SuccessEnd { s with
      result := ⟨BitVec.ofNat 8 (128 + v.toNat % 128), BitVec.ofNat 8 (v.toNat / 128), 0x00, 2⟩ }) ∧
    (16384 ≤ v.toNat → v.toNat < 2097152 → exec (.varlen v) s = SuccessEnd { s with
      result := ⟨BitVec.ofNat 8 (128 + v.toNat % 128), BitVec.ofNat 8 (128 + v.toNat / 128 % 128),
        BitVec.ofNat 8 (v.toNat / 16384), 3⟩ }) ∧
    (2097152 ≤ v.toNat → exec (.varlen v) s = ErrorEnd s 0x01)

/-- R140: below 2^21 the form is a continuation code: the high bit is set on all bytes but the last, the 7-bit groups,
least significant first, give the value back, and it is the shortest (a last group of 0 stands only alone). -/
def Obligations.VarLenIsAContinuationCode : Prop :=
  ∀ v : Nat, v < 2 ^ 21 →
    ((varLen v).mapIdx (fun k b => b.toNat % 128 * 128 ^ k)).sum = v ∧
    (varLen v).length ≤ 3 ∧
    (∀ k b, (varLen v)[k]? = some b → (128 ≤ b.toNat ↔ k + 1 < (varLen v).length)) ∧
    ((varLen v).getLast? = some 0x00 → (varLen v).length = 1)

/-- R147 with R142 and R146: FILLRECT emits its 26-byte packet, coordinates and colour verbatim, when the corners are in
order, and raises InvalidParameter when they are not. -/
def Obligations.FillrectEmitsItsPacket : Prop :=
  EncodedAs .fillrect 0x30 .ff ∧
  ∀ (s : State) (seq : Half) (r g b : Byte) (x0 y0 x1 y1 : Half),
    (x0.toNat ≤ x1.toNat → y0.toNat ≤ y1.toNat → Room 1 s →
      exec (.fillrect seq r g b x0 y0 x1 y1) s = EmitEnd s [dualChecked (
        [0xAA, 0x55, 0xFF, 0xFF, 20] ++ le16 seq.toNat ++ [0x00, Config.drawFlag, Config.drawCmd] ++
        [Config.tagFill, 13, Config.subFill, r, g, b] ++
        le16 x0.toNat ++ le16 y0.toNat ++ le16 x1.toNat ++ le16 y1.toNat)]) ∧
    (x1.toNat < x0.toNat ∨ y1.toNat < y0.toNat →
      exec (.fillrect seq r g b x0 y0 x1 y1) s = ErrorEnd s 0x01)

/-- R148: Pack has h · ceil(w/8) bytes; bit 7 − (c mod 8) of byte r·ceil(w/8) + c div 8 is pixel (r, c); and the bits of
a row's last byte beyond column w − 1 are 0. -/
def Obligations.PackPlacesEachPixel : Prop :=
  ∀ (pix : Pix) (w h : Nat),
    (pack pix w h).length = h * ((w + 7) / 8) ∧
    ∀ r c, r < h → c < 8 * ((w + 7) / 8) → ∃ b : Byte,
      (pack pix w h)[r * ((w + 7) / 8) + c / 8]? = some b ∧
      b.getLsbD (7 - c % 8) = (decide (c < w) && pix r c)

/-- R150 with R142 and R149: when the checks pass, BITMAP emits the packet of its matrix, or raises InvalidParameter if
the payload exceeds 249 bytes. The length value and corners are the spec's decisions D21 and D22. -/
def Obligations.BitmapEmitsItsPacket : Prop :=
  ∀ (s : State) (seq : Half) (r g b : Byte) (x0 y0 w h addr : Half) (m P : List Byte),
    1 ≤ w.toNat → 1 ≤ h.toNat → x0.toNat + w.toNat - 1 ≤ 65535 → y0.toNat + h.toNat - 1 ≤ 65535 →
    addr.toNat + w.toNat * h.toNat ≤ 65536 → m.length = w.toNat * h.toNat → IbufHolds s addr.toNat m →
    (∀ v, v ∈ m → v = 0x00 ∨ v = 0x01) →
    P = bitmapBytes r g b x0.toNat y0.toNat (x0.toNat + w.toNat - 1) (y0.toNat + h.toNat - 1)
      (pack (fun row col => m[row * w.toNat + col]? == some 0x01) w.toNat h.toNat) →
    (P.length ≤ 249 → Room 1 s → exec (.bitmap seq r g b x0 y0 w h addr) s = EmitEnd s [drawFrame seq P]) ∧
    (249 < P.length → exec (.bitmap seq r g b x0 y0 w h addr) s = ErrorEnd s 0x01)

/-- R150: BITMAP's other errors: w = 0 or h = 0, a corner past 65535, a range not in range, a matrix byte that is no
pixel; and an unwritten matrix byte is a model fault. -/
def Obligations.BitmapErrorsInOrder : Prop :=
  ∀ (s : State) (seq : Half) (r g b : Byte) (x0 y0 w h addr : Half),
    (w.toNat = 0 ∨ h.toNat = 0 → exec (.bitmap seq r g b x0 y0 w h addr) s = ErrorEnd s 0x01) ∧
    (1 ≤ w.toNat → 1 ≤ h.toNat → 65535 < x0.toNat + w.toNat - 1 ∨ 65535 < y0.toNat + h.toNat - 1 →
      exec (.bitmap seq r g b x0 y0 w h addr) s = ErrorEnd s 0x01) ∧
    (65536 < addr.toNat + w.toNat * h.toNat → exec (.bitmap seq r g b x0 y0 w h addr) s = ErrorEnd s 0x01) ∧
    (∀ m : List Byte, 1 ≤ w.toNat → 1 ≤ h.toNat → x0.toNat + w.toNat - 1 ≤ 65535 → y0.toNat + h.toNat - 1 ≤ 65535 →
      addr.toNat + w.toNat * h.toNat ≤ 65536 → m.length = w.toNat * h.toNat → IbufHolds s addr.toNat m →
      (∃ v, v ∈ m ∧ v ≠ 0x00 ∧ v ≠ 0x01) → exec (.bitmap seq r g b x0 y0 w h addr) s = ErrorEnd s 0x01) ∧
    (1 ≤ w.toNat → 1 ≤ h.toNat → x0.toNat + w.toNat - 1 ≤ 65535 → y0.toNat + h.toNat - 1 ≤ 65535 →
      addr.toNat + w.toNat * h.toNat ≤ 65536 → IbufGap s addr.toNat (w.toNat * h.toNat) →
      exec (.bitmap seq r g b x0 y0 w h addr) s = .fault .unwrittenRead)

/-- R143 with R149: the payload of nb packed bytes fits the envelope exactly when nb ≤ 234, its length field has one byte
exactly when nb ≤ 114, and never three bytes when it fits. -/
def Obligations.BitmapPayloadLimit : Prop :=
  ∀ (r g b : Byte) (x0 y0 x1 y1 : Nat) (bits : List Byte),
    ((bitmapBytes r g b x0 y0 x1 y1 bits).length ≤ 249 ↔ bits.length ≤ 234) ∧
    ((varLen (13 + bits.length)).length = 1 ↔ bits.length ≤ 114) ∧
    (bits.length ≤ 234 → (varLen (13 + bits.length)).length ≤ 2)

/-- R152 with R151 and R142: PIXELS emits the packet of its points' tight bounding box with exactly the points set, or
raises InvalidParameter if that payload exceeds 249 bytes. -/
def Obligations.PixelsEmitsItsBoundingBox : Prop :=
  ∀ (s : State) (seq : Half) (r g b : Byte) (addr count : Half) (Q : List (Nat × Nat)) (x0 x1 y0 y1 : Nat) (P : List Byte),
    addr.toNat + 4 * count.toNat ≤ 65536 → count.toNat = Q.length →
    (∀ p, p ∈ Q → p.1 < 65536 ∧ p.2 < 65536) →
    (∀ k p, Q[k]? = some p → IbufHolds s (addr.toNat + 4 * k) (le16 p.1 ++ le16 p.2)) →
    (∀ p, p ∈ Q → x0 ≤ p.1 ∧ p.1 ≤ x1 ∧ y0 ≤ p.2 ∧ p.2 ≤ y1) →
    (∃ p, p ∈ Q ∧ p.1 = x0) → (∃ p, p ∈ Q ∧ p.1 = x1) → (∃ p, p ∈ Q ∧ p.2 = y0) → (∃ p, p ∈ Q ∧ p.2 = y1) →
    P = bitmapBytes r g b x0 y0 x1 y1
      (pack (fun row col => decide ((x0 + col, y0 + row) ∈ Q)) (x1 - x0 + 1) (y1 - y0 + 1)) →
    (P.length ≤ 249 → Room 1 s → exec (.pixels seq r g b addr count) s = EmitEnd s [drawFrame seq P]) ∧
    (249 < P.length → exec (.pixels seq r g b addr count) s = ErrorEnd s 0x01)

/-- R152: PIXELS' other errors, in their order, and the model fault for an unwritten point byte. -/
def Obligations.PixelsErrorsInOrder : Prop :=
  ∀ (s : State) (seq : Half) (r g b : Byte) (addr count : Half),
    (65536 < addr.toNat + 4 * count.toNat → exec (.pixels seq r g b addr count) s = ErrorEnd s 0x01) ∧
    (count.toNat = 0 → exec (.pixels seq r g b addr count) s = ErrorEnd s 0x03) ∧
    (addr.toNat + 4 * count.toNat ≤ 65536 → IbufGap s addr.toNat (4 * count.toNat) →
      exec (.pixels seq r g b addr count) s = .fault .unwrittenRead)

/-- R151 and R152: two PIXELS commands whose points are the same set, in any order and with any repetition, end alike. -/
def Obligations.PixelsOrderAndRepeatsDoNotMatter : Prop :=
  ∀ (s : State) (seq : Half) (r g b : Byte) (addr count addr' count' : Half) (bs bs' : List Byte),
    addr.toNat + 4 * count.toNat ≤ 65536 → addr'.toNat + 4 * count'.toNat ≤ 65536 →
    bs.length = 4 * count.toNat → bs'.length = 4 * count'.toNat →
    IbufHolds s addr.toNat bs → IbufHolds s addr'.toNat bs' →
    (∀ p, p ∈ points bs ↔ p ∈ points bs') →
    exec (.pixels seq r g b addr count) s = exec (.pixels seq r g b addr' count') s

/-! ### All commands -/

/-- R70 and R71: every frame a command adds begins with MAGIC and has the length its kind has. -/
def Obligations.EmittedFramesHaveTheirLengths : Prop :=
  ∀ (i : Instr) (s t : State) (f : Frame), exec i s = .next t → f ∈ t.outq.drop s.outq.length →
    f.take 4 = [0xAA, 0x55, 0xFF, 0xFF] ∧
    (match i.opcode with
      | .pktReset => f.length = 16
      | .pktReady => f.length = 16
      | .pktUc => f.length = 17
      | .pktBright => f.length = 16
      | .chunk => f.length = 233 + Config.pliW
      | .uploadSeq => f.length = 16 ∨ f.length = 17 ∨ f.length = 233 + Config.pliW
      | .fillrect => f.length = 26
      | .bitmap => 26 ≤ f.length ∧ f.length ≤ 261
      | .pixels => 26 ≤ f.length ∧ f.length ≤ 261
      | _ => False)

/-- R174, R175 and R176: a command that ends either wrote ERR 0x00 and left STICKY, or reported one of the codes
0x01..0x04 and changed nothing but STATUS, with STICKY set; one that does not end (it holds) changed nothing. -/
def Obligations.ErrorsArePrecise : Prop :=
  ∀ (i : Instr) (s t : State), exec i s = .next t →
    (t = s) ∨ (t.pending = false ∧ t.err = 0x00 ∧ t.sticky = s.sticky) ∨
    (1 ≤ t.err.toNat ∧ t.err.toNat ≤ 4 ∧ t = { s with err := t.err, sticky := true, pending := false })

/-- R171: which command can end with which error code. -/
def Obligations.OnlyItsOwnErrors : Prop :=
  ∀ (i : Instr) (s t : State), s.pending = true → exec i s = .next t → t.pending = false → t.err ≠ 0x00 →
    match i.opcode with
    | .ckfeed | .sum8 | .hisum | .ckpair | .pktBright | .fillrect | .bitmap | .varlen => t.err = 0x01
    | .chunk | .uploadSeq => t.err = 0x01 ∨ t.err = 0x02 ∨ t.err = 0x04
    | .pixels => t.err = 0x01 ∨ t.err = 0x03
    | .ckclr | .cktrail | .pktReset | .pktReady | .pktUc => False

/-- The frame of every command (R24, R25, R59, R92): ACC changes only by CKCLR and CKFEED, RESULT only by the five that
write it; no byte of IBUF, CMDBUF or LATCH, no FAULT record and nothing of the host changes (that LATCH keeps its bytes is the
model's choice, log 4, and so are the host's plan and record, log 5); STICKY is never cleared; and
OUTQ keeps what it held, at its head. -/
def Obligations.CommandFrame : Prop :=
  ∀ (i : Instr) (s t : State), exec i s = .next t →
    (i.opcode ≠ .ckclr → i.opcode ≠ .ckfeed → t.acc = s.acc) ∧
    (i.opcode ≠ .cktrail → i.opcode ≠ .sum8 → i.opcode ≠ .hisum → i.opcode ≠ .ckpair → i.opcode ≠ .varlen →
      t.result = s.result) ∧
    (∀ a, Memory.read t.ibuf a = Memory.read s.ibuf a) ∧
    (∀ a, Memory.read t.cmdbuf a = Memory.read s.cmdbuf a) ∧
    t.ibuf = s.ibuf ∧ t.cmdbuf = s.cmdbuf ∧ t.latch = s.latch ∧ t.fault = s.fault ∧ t.hostPlan = s.hostPlan ∧
    t.hostSeen = s.hostSeen ∧
    (s.sticky = true → t.sticky = true) ∧
    t.outq.take s.outq.length = s.outq ∧
    (i.opcode = .ckclr ∨ i.opcode = .ckfeed ∨ i.opcode = .cktrail ∨ i.opcode = .sum8 ∨ i.opcode = .hisum ∨
      i.opcode = .ckpair ∨ i.opcode = .varlen → t.outq = s.outq)

/-- R46: a command that would emit k frames with fewer than k slots free holds: no change at all; with room it emits all
of them; and a command that raises an error needs no room. Stated for each command that emits, over what it would do with
OUTQ empty. -/
def Obligations.EmissionIsAllOrHold : Prop :=
  ∀ (i : Instr) (s t : State), s.pending = true → exec i { s with outq := [] } = .next t → t.pending = false →
    (t.outq = [] → exec i s = .next { t with outq := s.outq }) ∧
    (t.outq ≠ [] → s.outq.length + t.outq.length ≤ Config.outqCapacity →
      exec i s = .next { t with outq := s.outq ++ t.outq }) ∧
    (t.outq ≠ [] → Config.outqCapacity < s.outq.length + t.outq.length → exec i s = .next s)

/-- R202: from two states with the same IBUF bytes, the same ACC and equally many frames queued, a command adds the same
frames, leaves the same ACC, writes the same RESULT (or writes it in neither) and ends with the same ERR (or holds in both,
which is an unchanged state, log 1), whatever STICKY, ERR, RESULT, CMDBUF and the frames queued are. -/
def Obligations.CommandsDependOnlyOnTheirInputs : Prop :=
  ∀ (i : Instr) (s s' t : State),
    (∀ a, Memory.read s'.ibuf a = Memory.read s.ibuf a) → s'.acc = s.acc → s'.outq.length = s.outq.length →
    exec i s = .next t →
    ∃ t' frames, exec i s' = .next t' ∧ t.outq = s.outq ++ frames ∧ t'.outq = s'.outq ++ frames ∧ t'.acc = t.acc ∧
      ((t.result = s.result ∧ t'.result = s'.result) ∨ t'.result = t.result) ∧
      ((t = s ∧ t' = s') ∨ (t'.err = t.err ∧ t.pending = false ∧ t'.pending = false))

/-! ### Registers and the host's side (10_state.md, 20_memory.md, 70_reset_and_hazards.md) -/

/-- R23 to R28: what the read-only registers read as, as numbers; and R50: a read of any place changes nothing but the
host's own record of it (log 5). The lengths are below 65536 in every state of the invariant (R27, R28). -/
def Obligations.RegistersReadTheirFields : Prop :=
  ∀ s : State, ∃ v0 v4 v8 v12 v16 : Word,
    hostRead (.reg .w32 0x00) s = .ok v0 ∧ hostRead (.reg .w32 0x04) s = .ok v4 ∧
    hostRead (.reg .w32 0x08) s = .ok v8 ∧ hostRead (.reg .w32 0x0C) s = .ok v12 ∧
    hostRead (.reg .w32 0x10) s = .ok v16 ∧
    v0.toNat = s.pending.toNat + 2 * s.sticky.toNat + 256 * s.err.toNat ∧
    v4.toNat = s.acc.toNat ∧
    v8.toNat = s.result.res0.toNat + 256 * s.result.res1.toNat + 65536 * s.result.res2.toNat +
      16777216 * s.result.resLen.val ∧
    (s.outq.length ≤ 65535 → v12.toNat = s.outq.length) ∧
    (s.outq = [] → v16.toNat = 0) ∧
    (∀ f q, s.outq = f :: q → f.length ≤ 65535 → v16.toNat = f.length) ∧
    (∀ r t, hostAct (.read r) s = .next t →
      ∃ v, hostRead r s = .ok v ∧ t = { s with hostSeen := s.hostSeen ++ [.word v] })

/-- R32: reserved offsets, write-only registers and CMDBUF read 0 (the widths at 0x30..0xFF and of CMDBUF reads: log 14), and writes to reserved offsets and read-only registers
are ignored. -/
def Obligations.ReservedReadsZeroAndIgnoresWrites : Prop :=
  ∀ (s : State) (offset : Byte) (value : Word),
    (offset.toNat % 4 = 0 → (0x14 ≤ offset.toNat ∧ offset.toNat ≤ 0x1C) ∨ 0x30 ≤ offset.toNat →
      hostRead (.reg .w32 offset) s = .ok 0) ∧
    (0x20 ≤ offset.toNat → offset.toNat ≤ 0x2F → hostRead (.reg .w8 offset) s = .ok 0) ∧
    (offset.toNat % 4 = 0 → offset.toNat ≤ 0x10 ∨ offset.toNat = 0x1C ∨ 0x30 ≤ offset.toNat →
      hostWrite (.reg .w32 offset value) s = .next s)

/-- R33 and D37: an access of any other width or alignment is the model fault BAD_HOST_ACCESS, reading or writing, in every
space. The widths a host can issue are the model's 8, 16 and 32 bits (log 20). The widths at the reserved offsets 0x30..0xFF are deduced (log 14). That it is this fault even where another is met
too (a command pending, an unwritten byte, a place beyond the frame) is the model's choice of order (log 15). -/
def Obligations.BadAccessFaults : Prop :=
  ∀ (s : State) (width : Width) (offset : Byte) (addr : Half) (value : Word),
    ((offset.toNat < 0x20 → width ≠ .w32 ∨ offset.toNat % 4 ≠ 0 →
      hostRead (.reg width offset) s = .error .badHostAccess ∧
      hostWrite (.reg width offset value) s = .fault .badHostAccess) ∧
    (0x20 ≤ offset.toNat → offset.toNat ≤ 0x2F → width ≠ .w8 →
      hostRead (.reg width offset) s = .error .badHostAccess ∧
      hostWrite (.reg width offset value) s = .fault .badHostAccess) ∧
    (0x30 ≤ offset.toNat → width ≠ .w32 ∨ offset.toNat % 4 ≠ 0 →
      hostRead (.reg width offset) s = .error .badHostAccess ∧
      hostWrite (.reg width offset value) s = .fault .badHostAccess) ∧
    (width ≠ .w8 → hostRead (.ibuf width addr) s = .error .badHostAccess ∧
      hostRead (.out width addr) s = .error .badHostAccess ∧
      hostWrite (.ibuf width addr value) s = .fault .badHostAccess ∧
      hostWrite (.out width addr value) s = .fault .badHostAccess))

/-- R30: a CMD_GO write, whatever its value, copies CMDBUF with its marks into LATCH and sets PENDING, and changes nothing
else; with PENDING = 1 it is the model fault HOST_HAZARD; a read returns 0. -/
def Obligations.CmdGoLatchesTheDescriptor : Prop :=
  ∀ (s : State) (value : Word),
    (s.pending = false →
      hostAct (.write (.reg .w32 0x18 value)) s = .next { s with latch := some s.cmdbuf, pending := true }) ∧
    (s.pending = true → hostAct (.write (.reg .w32 0x18 value)) s = .fault .hostHazard) ∧
    hostRead (.reg .w32 0x18) s = .ok 0

/-- R31 and R56: a CMDBUF byte write stores the byte (the low byte of the word written, log 15) and marks it written, leaves every other byte and mark, and does not
touch LATCH, whether or not a command is pending. -/
def Obligations.CmdbufWriteLeavesTheLatch : Prop :=
  ∀ (s : State) (k : Nat) (value : Word), k < 16 → ∃ m : Memory,
    hostAct (.write (.reg .w8 (BitVec.ofNat 8 (0x20 + k)) value)) s = .next { s with cmdbuf := m } ∧
    (∃ b : Byte, b.toNat = value.toNat % 256 ∧ Memory.read m k = some b) ∧
    ∀ j, j ≠ k → Memory.read m j = Memory.read s.cmdbuf j

/-- R41, R43 and R194: an IBUF write stores and marks one byte and no other (the low byte of the word written, log 15);
reading it back gives it, zero-extended (log 15); an unwritten byte
read is UNWRITTEN_READ; and a write while a command is pending is HOST_HAZARD. -/
def Obligations.IbufWriteThenRead : Prop :=
  ∀ (s : State) (addr : Half) (value : Word),
    (s.pending = false → ∃ (m : Memory) (v : Word),
      hostAct (.write (.ibuf .w8 addr value)) s = .next { s with ibuf := m } ∧
      v.toNat = value.toNat % 256 ∧ hostRead (.ibuf .w8 addr) { s with ibuf := m } = .ok v ∧
      ∀ a, a ≠ addr.toNat → Memory.read m a = Memory.read s.ibuf a) ∧
    (s.pending = true → hostAct (.write (.ibuf .w8 addr value)) s = .fault .hostHazard) ∧
    (Memory.read s.ibuf addr.toNat = none → hostAct (.read (.ibuf .w8 addr)) s = .fault .unwrittenRead)

/-- R44: out_read(i) gives byte i of the head frame, zero-extended (log 15), and changes nothing but what the host has seen
(log 5); at or beyond its length, or with OUTQ empty, it is the model fault OUT_RANGE_READ. -/
def Obligations.OutWindowReadsTheHeadFrame : Prop :=
  ∀ (s : State) (i : Half),
    (∀ f q b, s.outq = f :: q → f[i.toNat]? = some b → ∃ v : Word, v.toNat = b.toNat ∧
      hostAct (.read (.out .w8 i)) s = .next { s with hostSeen := s.hostSeen ++ [.word v] }) ∧
    (∀ f q, s.outq = f :: q → f.length ≤ i.toNat → hostAct (.read (.out .w8 i)) s = .fault .outRangeRead) ∧
    (s.outq = [] → hostAct (.read (.out .w8 i)) s = .fault .outRangeRead)

/-- R29: an OUT_POP write, whatever its value, removes the head frame, does nothing on an empty queue, reads as 0, and may
be made while a command is pending. -/
def Obligations.OutPopRemovesTheHead : Prop :=
  ∀ (s : State) (value : Word),
    (∀ f q, s.outq = f :: q → hostAct (.write (.reg .w32 0x14 value)) s = .next { s with outq := q }) ∧
    (s.outq = [] → hostAct (.write (.reg .w32 0x14 value)) s = .next s) ∧
    hostRead (.reg .w32 0x14) s = .ok 0

/-- R190 and R191 with R178: block reset puts every field at its reset value, discarding a pending command and every
frame, and keeps the FAULT record; the host agent, which is the model's own (log 5), goes on. -/
def Obligations.BlockResetRestoresEverything : Prop :=
  ∀ s : State, hostAct .blockReset s = .next
    { pending := false, sticky := false, err := 0x00, acc := 0x0000, result := ⟨0x00, 0x00, 0x00, 0⟩, cmdbuf := [],
      latch := none, ibuf := [], outq := [], fault := s.fault, hostPlan := s.hostPlan, hostSeen := s.hostSeen }

/-- R37: the values after power-on, and that every byte of CMDBUF and IBUF is unwritten. -/
def Obligations.ResetStateIsAsStated : Prop :=
  State.reset.pending = false ∧ State.reset.sticky = false ∧ State.reset.err = 0x00 ∧ State.reset.acc = 0x0000 ∧
  State.reset.result = ⟨0x00, 0x00, 0x00, 0⟩ ∧ State.reset.outq = [] ∧ State.reset.latch = none ∧
  (∀ a, Memory.read State.reset.cmdbuf a = none) ∧ (∀ a, Memory.read State.reset.ibuf a = none) ∧
  State.reset.fault = none ∧ hostRead (.reg .w32 0x0C) State.reset = .ok 0 ∧
  hostRead (.reg .w32 0x10) State.reset = .ok 0

/-- R178: a step that meets a model fault records it and changes nothing else; from then on no step is taken and the run
is never final; and a step that goes on had no fault recorded. -/
def Obligations.ModelFaultStopsTheRun : Prop :=
  (∀ (s : State) (f : Fault), s.fault = none → move s = .fault f → step s = .next { s with fault := some f }) ∧
  (∀ (s : State) (f : Fault), s.fault = some f → step s = .fault f ∧ ¬ s.Final) ∧
  (∀ (s t : State), step s = .next t → s.fault = none)

/-- R185, R192 and R46: with no command pending the block's step changes nothing; the same while a command holds, which is
while fewer slots are free than the frames it would emit; and then the run is not final. The unchanged next state is the
model's form of "no step" (log 1); the host's plan moves on by its `block` item (log 5). -/
def Obligations.IdleBlockStaysAsItIs : Prop :=
  (∀ s : State, s.fault = none → s.pending = false → s.hostPlan = [] → step s = .next s ∧ s.Final) ∧
  (∀ (s : State) (plan : List HostEvent), s.fault = none → s.pending = false → s.hostPlan = .block :: plan →
    step s = .next { s with hostPlan := plan }) ∧
  (∀ s : State, s.pending = true → ¬ s.Final) ∧
  (∀ (s s' : State) (m : Memory) (bs : List Byte) (i : Instr),
    s.fault = none → s.pending = true → s.latch = some m →
    decode bs = .ok (i, []) → (∀ k, k < bs.length → Memory.read m k = bs[k]?) → BlockTurn s s' →
    (exec i s' = .next s' → step s = .next s') ∧
    (∀ t, exec i { s' with outq := [] } = .next t → t.pending = false → t.outq ≠ [] →
      Config.outqCapacity < s.outq.length + t.outq.length → step s = .next s'))

/-- R37: at reset the invariant holds (its memory form is the model's, log 2). -/
def Obligations.ResetMeetsTheInvariant : Prop := State.reset.Inv

/-- R23, R25, R27, R28, R31, R35, R41, R45, R70, R170, R176: every step, of the block or of the host, from any state that
meets the invariant gives a state that meets it. Its clauses on the form of the memories rest on log 2, and the bound 65535 on
a frame's length on log 7. -/
def Obligations.EveryStepKeepsTheInvariant : Prop :=
  ∀ s t : State, s.Inv → step s = .next t → t.Inv

/-- The memory operations keep the canonical form of log 2: a write inside the memory keeps it, whatever stood there; and in
it equal reads mean equal memories. -/
def Obligations.CanonicalMemoryIsDeterminedByItsBytes : Prop :=
  (∀ (size : Nat) (m : Memory) (a : Nat) (b : Byte), a < size → Memory.wf size m = true →
    Memory.wf size (Memory.write m a b) = true) ∧
  ∀ (size : Nat) (m m' : Memory), Memory.wf size m = true → Memory.wf size m' = true →
    (∀ a, Memory.read m a = Memory.read m' a) → m = m'
end

