-- ==== Sys2Proof/Laws/Config.lean ====
section
/-! SUPPORT. What is known of the OPEN parameters: their lengths and bounds (00_scope.md R9), never their values. -/

namespace Sys2Proof.Config

theorem length_resetTail : resetTail.length = 12 := by simp [resetTail]

theorem length_readyTail : readyTail.length = 12 := by simp [readyTail]

theorem length_ucTail : ucTail.length = 13 := by simp [ucTail]

theorem length_chunkConstTail : chunkConstTail.length = 23 := by simp [chunkConstTail]

theorem length_chunkPli : chunkPli.length = pliW := by simp [chunkPli]

/-- PLI_W ≥ 1 (R126), and a chunk packet's length fits 16 bits (R28). -/
theorem pliW_bounds : 1 ≤ pliW ∧ pliW ≤ 65302 := by
  have := chunkPliExtra.isLt
  unfold pliW
  omega

/-- 259 ≤ OUTQ_CAPACITY ≤ 65535 (R27, R45). -/
theorem outqCapacity_bounds : 259 ≤ outqCapacity ∧ outqCapacity ≤ 65535 := by
  have := outqSlack.isLt
  unfold outqCapacity
  omega

end Sys2Proof.Config
end

