-- ==== Sys2Proof/Laws/Decode.lean ====
section
/-! SUPPORT. The small laws of the opcode map and the little-endian fields. -/

namespace Sys2Proof

/-- Each opcode byte is its own mnemonic's only (R65). -/
@[simp] theorem Opcode.ofByte_code (op : Opcode) : Opcode.ofByte op.code = some op := by cases op <;> decide

/-- A byte that decodes to a mnemonic is that mnemonic's opcode (R65). -/
theorem Opcode.code_of_ofByte {b : Byte} {op : Opcode} (h : Opcode.ofByte b = some op) : op.code = b := by
  have := List.find?_some h
  simpa using this

theorem Opcode.length_pos (op : Opcode) : 0 < op.length := by cases op <;> decide

/-- A 16-bit operand is read back from its two bytes (R64). -/
theorem ofLE16_bytes (v : Half) : ofLE16 (v.extractLsb' 0 8) (v.extractLsb' 8 8) = v := by
  apply BitVec.eq_of_getLsbD_eq
  intro i hi
  simp only [ofLE16, BitVec.getLsbD_append, BitVec.getLsbD_extractLsb']
  split
  · simp [*]
  · have : i - 8 < 8 := by omega
    simp [this]
    congr 1
    omega

/-- A 24-bit operand is read back from its three bytes (R64). -/
theorem ofLE24_bytes (v : Word24) :
    ofLE24 (v.extractLsb' 0 8) (v.extractLsb' 8 8) (v.extractLsb' 16 8) = v := by
  apply BitVec.eq_of_getLsbD_eq
  intro i hi
  simp only [ofLE24, BitVec.getLsbD_append, BitVec.getLsbD_extractLsb']
  split
  · simp [*]
  · split
    · rename_i h1 h2
      simp [h2]
      congr 1
      omega
    · rename_i h1 h2
      have : i - 8 - 8 < 8 := by omega
      simp [this]
      congr 1
      omega

/-- An LE16 field as a number (R64). -/
theorem toNat_ofLE16 (b0 b1 : Byte) : (ofLE16 b0 b1).toNat = b0.toNat + 256 * b1.toNat := by
  have := b0.isLt
  simp only [ofLE16, BitVec.toNat_append]
  rw [← Nat.shiftLeft_add_eq_or_of_lt this, Nat.shiftLeft_eq]
  omega

/-- An LE24 field as a number (R64). -/
theorem toNat_ofLE24 (b0 b1 b2 : Byte) : (ofLE24 b0 b1 b2).toNat = b0.toNat + 256 * b1.toNat + 65536 * b2.toNat := by
  have h0 := b0.isLt
  have h1 := b1.isLt
  simp only [ofLE24, BitVec.toNat_append]
  rw [← Nat.shiftLeft_add_eq_or_of_lt h0, ← Nat.shiftLeft_add_eq_or_of_lt h1, Nat.shiftLeft_eq, Nat.shiftLeft_eq]
  omega

/-- Two bytes are written back from the operand read from them. -/
theorem bytesLE16_ofLE16 (b0 b1 : Byte) : bytesLE16 (ofLE16 b0 b1) = [b0, b1] := by
  have h0 := b0.isLt
  have h1 := b1.isLt
  have e0 : (ofLE16 b0 b1).extractLsb' 0 8 = b0 := by
    apply BitVec.eq_of_toNat_eq
    rw [BitVec.extractLsb'_toNat, toNat_ofLE16, Nat.shiftRight_eq_div_pow]
    omega
  have e1 : (ofLE16 b0 b1).extractLsb' 8 8 = b1 := by
    apply BitVec.eq_of_toNat_eq
    rw [BitVec.extractLsb'_toNat, toNat_ofLE16, Nat.shiftRight_eq_div_pow]
    omega
  rw [bytesLE16, e0, e1]

/-- Three bytes are written back from the operand read from them. -/
theorem bytesLE24_ofLE24 (b0 b1 b2 : Byte) : bytesLE24 (ofLE24 b0 b1 b2) = [b0, b1, b2] := by
  have h0 := b0.isLt
  have h1 := b1.isLt
  have h2 := b2.isLt
  have e0 : (ofLE24 b0 b1 b2).extractLsb' 0 8 = b0 := by
    apply BitVec.eq_of_toNat_eq
    rw [BitVec.extractLsb'_toNat, toNat_ofLE24, Nat.shiftRight_eq_div_pow]
    omega
  have e1 : (ofLE24 b0 b1 b2).extractLsb' 8 8 = b1 := by
    apply BitVec.eq_of_toNat_eq
    rw [BitVec.extractLsb'_toNat, toNat_ofLE24, Nat.shiftRight_eq_div_pow]
    omega
  have e2 : (ofLE24 b0 b1 b2).extractLsb' 16 8 = b2 := by
    apply BitVec.eq_of_toNat_eq
    rw [BitVec.extractLsb'_toNat, toNat_ofLE24, Nat.shiftRight_eq_div_pow]
    omega
  rw [bytesLE24, e0, e1, e2]

/-- The two bytes of a 16-bit operand as numbers. -/
theorem bytesLE16_eq (v : Half) : bytesLE16 v = [BitVec.ofNat 8 v.toNat, BitVec.ofNat 8 (v.toNat / 256)] := by
  have e0 : v.extractLsb' 0 8 = BitVec.ofNat 8 v.toNat := by
    apply BitVec.eq_of_toNat_eq
    simp [BitVec.extractLsb'_toNat]
  have e1 : v.extractLsb' 8 8 = BitVec.ofNat 8 (v.toNat / 256) := by
    apply BitVec.eq_of_toNat_eq
    simp [BitVec.extractLsb'_toNat, Nat.shiftRight_eq_div_pow]
  rw [bytesLE16, e0, e1]

/-- The bytes of a descriptor given as a number: as many as asked for. -/
@[simp] theorem length_descriptorBytes (n w : Nat) : (descriptorBytes n w).length = n := by simp [descriptorBytes]

end Sys2Proof
end

