-- ==== Sys2Proof/Laws/Memory.lean ====
section
/-! SUPPORT. The laws of memory with written marks: reads after writes, the canonical form, and ranges. -/

namespace Sys2Proof.Machine

/-! ### Reads and writes -/

@[simp] theorem Memory.read_nil (a : Nat) : Memory.read [] a = none := rfl

theorem Memory.read_cons (k : Nat) (b : Byte) (m : Memory) (a : Nat) :
    Memory.read ((k, b) :: m) a = if k = a then some b else Memory.read m a := rfl

/-- A read after a write to the same address gives the byte written. -/
@[simp] theorem Memory.read_write_same (m : Memory) (a : Nat) (b : Byte) :
    Memory.read (Memory.write m a b) a = some b := by
  induction m with
  | nil => simp [Memory.write, Memory.read]
  | cons c m ih =>
    obtain ⟨k, d⟩ := c
    unfold Memory.write
    split
    · simp [Memory.read]
    · split
      · simp [Memory.read]
      · rename_i h
        rw [Memory.read_cons, if_neg (fun e => h e.symm), ih]

/-- A write leaves every other address alone. -/
theorem Memory.read_write_other (m : Memory) (a a' : Nat) (b : Byte) (h : a' ≠ a) :
    Memory.read (Memory.write m a b) a' = Memory.read m a' := by
  induction m with
  | nil => simp [Memory.write, Memory.read, h.symm]
  | cons c m ih =>
    obtain ⟨k, d⟩ := c
    unfold Memory.write
    split
    · simp [Memory.read, h.symm]
    · split
      · rename_i e
        subst e
        simp [Memory.read, h.symm]
      · simp only [Memory.read_cons, ih]

/-! ### The canonical form -/

theorem Memory.risesFrom_mono {low low' size : Nat} {m : Memory} (h : low' ≤ low)
    (hm : Memory.risesFrom low size m = true) : Memory.risesFrom low' size m = true := by
  cases m with
  | nil => rfl
  | cons c m =>
    obtain ⟨k, d⟩ := c
    simp only [Memory.risesFrom, Bool.and_eq_true, decide_eq_true_eq] at hm ⊢
    exact ⟨⟨by omega, hm.1.2⟩, hm.2⟩

theorem Memory.read_below {low size a : Nat} {m : Memory} (hm : Memory.risesFrom low size m = true)
    (h : a < low) : Memory.read m a = none := by
  induction m generalizing low with
  | nil => rfl
  | cons c m ih =>
    obtain ⟨k, d⟩ := c
    simp only [Memory.risesFrom, Bool.and_eq_true, decide_eq_true_eq] at hm
    rw [Memory.read_cons, if_neg (by omega), ih hm.2 (by omega)]

theorem Memory.risesFrom_write {low size a : Nat} {m : Memory} (b : Byte) (hl : low ≤ a) (ha : a < size)
    (hm : Memory.risesFrom low size m = true) : Memory.risesFrom low size (Memory.write m a b) = true := by
  induction m generalizing low with
  | nil => simp [Memory.write, Memory.risesFrom, hl, ha]
  | cons c m ih =>
    obtain ⟨k, d⟩ := c
    simp only [Memory.risesFrom, Bool.and_eq_true, decide_eq_true_eq] at hm
    unfold Memory.write
    split
    · simp only [Memory.risesFrom, Bool.and_eq_true, decide_eq_true_eq]
      exact ⟨⟨hl, ha⟩, ⟨by omega, hm.1.2⟩, hm.2⟩
    · split
      · rename_i e
        subst e
        simp only [Memory.risesFrom, Bool.and_eq_true, decide_eq_true_eq]
        exact ⟨⟨hl, ha⟩, hm.2⟩
      · simp only [Memory.risesFrom, Bool.and_eq_true, decide_eq_true_eq]
        exact ⟨hm.1, ih (by omega) hm.2⟩

/-- A write inside the memory keeps the canonical form. -/
theorem Memory.wf_write {size a : Nat} {m : Memory} (b : Byte) (ha : a < size) (hm : Memory.wf size m = true) :
    Memory.wf size (Memory.write m a b) = true := Memory.risesFrom_write b (Nat.zero_le a) ha hm

/-- The empty memory of reset is in canonical form. -/
@[simp] theorem Memory.wf_nil (size : Nat) : Memory.wf size [] = true := rfl

theorem reset_memories_wf : Memory.wf Config.ibufSize State.reset.ibuf = true ∧
    Memory.wf Config.cmdbufSize State.reset.cmdbuf = true := ⟨rfl, rfl⟩

/-! ### Ranges -/

/-- What `readRange` answers: the bytes of the range, one by one. -/
theorem Memory.readRange_some {m : Memory} {a n : Nat} {bs : List Byte} :
    Memory.readRange m a n = some bs ↔ bs.length = n ∧ ∀ k, k < n → Memory.read m (a + k) = bs[k]? := by
  induction n generalizing a bs with
  | zero => cases bs <;> simp [Memory.readRange]
  | succ n ih =>
    unfold Memory.readRange
    constructor
    · intro h
      split at h
      · rename_i b cs hb hcs
        cases h
        obtain ⟨hl, hr⟩ := ih.1 hcs
        refine ⟨by simp [hl], ?_⟩
        intro k hk
        cases k with
        | zero => simpa using hb
        | succ k =>
          have := hr k (by omega)
          rw [show a + (k + 1) = a + 1 + k by omega, this]
          simp
      · cases h
    · rintro ⟨hl, hr⟩
      cases bs with
      | nil => simp at hl
      | cons b cs =>
        have h0 : Memory.read m a = some b := by simpa using hr 0 (by omega)
        have hcs : Memory.readRange m (a + 1) n = some cs := by
          refine ih.2 ⟨by simpa using hl, ?_⟩
          intro k hk
          have := hr (k + 1) (by omega)
          rw [show a + 1 + k = a + (k + 1) by omega, this]
          simp
        simp [h0, hcs]

/-- `readRange` answers nothing exactly when a byte of the range is unwritten. -/
theorem Memory.readRange_none {m : Memory} {a n : Nat} :
    Memory.readRange m a n = none ↔ ∃ k, k < n ∧ Memory.read m (a + k) = none := by
  induction n generalizing a with
  | zero => simp [Memory.readRange]
  | succ n ih =>
    unfold Memory.readRange
    constructor
    · intro h
      cases hb : Memory.read m a with
      | none => exact ⟨0, by omega, by simpa using hb⟩
      | some b =>
        cases hcs : Memory.readRange m (a + 1) n with
        | none =>
          obtain ⟨k, hk, hr⟩ := ih.1 hcs
          exact ⟨k + 1, by omega, by rw [← hr]; congr 1; omega⟩
        | some cs => simp [hb, hcs] at h
    · rintro ⟨k, hk, hr⟩
      cases k with
      | zero => simp at hr; simp [hr]
      | succ k =>
        have : Memory.readRange m (a + 1) n = none :=
          ih.2 ⟨k, by omega, by rw [← hr]; congr 1; omega⟩
        rw [this]
        cases Memory.read m a <;> rfl

/-- Ranges depend only on the bytes read. -/
theorem Memory.readRange_congr {m m' : Memory} {a n : Nat}
    (h : ∀ k, k < n → Memory.read m' (a + k) = Memory.read m (a + k)) :
    Memory.readRange m' a n = Memory.readRange m a n := by
  induction n generalizing a with
  | zero => rfl
  | succ n ih =>
    have h0 : Memory.read m' a = Memory.read m a := by simpa using h 0 (by omega)
    have h1 : Memory.readRange m' (a + 1) n = Memory.readRange m (a + 1) n := by
      refine ih fun k hk => ?_
      have := h (k + 1) (by omega)
      rwa [show a + 1 + k = a + (k + 1) by omega]
    simp only [Memory.readRange, h0, h1]

end Sys2Proof.Machine
end

