-- ==== Sys2Proof/Laws/State.lean ====
section
/-! SUPPORT. Each field of State after each named update, so that no proof unfolds a record update. -/

namespace Sys2Proof.Machine

variable (s : State)

/-! ### State.failed -/

@[simp] theorem State.failed_pending (e : CmdError) : (s.failed e).pending = false := rfl
@[simp] theorem State.failed_sticky (e : CmdError) : (s.failed e).sticky = true := rfl
@[simp] theorem State.failed_err (e : CmdError) : (s.failed e).err = e.code := rfl
@[simp] theorem State.failed_acc (e : CmdError) : (s.failed e).acc = s.acc := rfl
@[simp] theorem State.failed_result (e : CmdError) : (s.failed e).result = s.result := rfl
@[simp] theorem State.failed_cmdbuf (e : CmdError) : (s.failed e).cmdbuf = s.cmdbuf := rfl
@[simp] theorem State.failed_latch (e : CmdError) : (s.failed e).latch = s.latch := rfl
@[simp] theorem State.failed_ibuf (e : CmdError) : (s.failed e).ibuf = s.ibuf := rfl
@[simp] theorem State.failed_outq (e : CmdError) : (s.failed e).outq = s.outq := rfl
@[simp] theorem State.failed_fault (e : CmdError) : (s.failed e).fault = s.fault := rfl
@[simp] theorem State.failed_hostPlan (e : CmdError) : (s.failed e).hostPlan = s.hostPlan := rfl
@[simp] theorem State.failed_hostSeen (e : CmdError) : (s.failed e).hostSeen = s.hostSeen := rfl

/-! ### State.completed -/

@[simp] theorem State.completed_pending : (s.completed).pending = false := rfl
@[simp] theorem State.completed_sticky : (s.completed).sticky = s.sticky := rfl
@[simp] theorem State.completed_err : (s.completed).err = 0x00 := rfl
@[simp] theorem State.completed_acc : (s.completed).acc = s.acc := rfl
@[simp] theorem State.completed_result : (s.completed).result = s.result := rfl
@[simp] theorem State.completed_cmdbuf : (s.completed).cmdbuf = s.cmdbuf := rfl
@[simp] theorem State.completed_latch : (s.completed).latch = s.latch := rfl
@[simp] theorem State.completed_ibuf : (s.completed).ibuf = s.ibuf := rfl
@[simp] theorem State.completed_outq : (s.completed).outq = s.outq := rfl
@[simp] theorem State.completed_fault : (s.completed).fault = s.fault := rfl
@[simp] theorem State.completed_hostPlan : (s.completed).hostPlan = s.hostPlan := rfl
@[simp] theorem State.completed_hostSeen : (s.completed).hostSeen = s.hostSeen := rfl

/-! ### State.withResult1 -/

@[simp] theorem State.withResult1_pending (b0 : Byte) : (s.withResult1 b0).pending = s.pending := rfl
@[simp] theorem State.withResult1_sticky (b0 : Byte) : (s.withResult1 b0).sticky = s.sticky := rfl
@[simp] theorem State.withResult1_err (b0 : Byte) : (s.withResult1 b0).err = s.err := rfl
@[simp] theorem State.withResult1_acc (b0 : Byte) : (s.withResult1 b0).acc = s.acc := rfl
@[simp] theorem State.withResult1_result (b0 : Byte) : (s.withResult1 b0).result = ⟨b0, 0x00, 0x00, 1⟩ := rfl
@[simp] theorem State.withResult1_cmdbuf (b0 : Byte) : (s.withResult1 b0).cmdbuf = s.cmdbuf := rfl
@[simp] theorem State.withResult1_latch (b0 : Byte) : (s.withResult1 b0).latch = s.latch := rfl
@[simp] theorem State.withResult1_ibuf (b0 : Byte) : (s.withResult1 b0).ibuf = s.ibuf := rfl
@[simp] theorem State.withResult1_outq (b0 : Byte) : (s.withResult1 b0).outq = s.outq := rfl
@[simp] theorem State.withResult1_fault (b0 : Byte) : (s.withResult1 b0).fault = s.fault := rfl
@[simp] theorem State.withResult1_hostPlan (b0 : Byte) : (s.withResult1 b0).hostPlan = s.hostPlan := rfl
@[simp] theorem State.withResult1_hostSeen (b0 : Byte) : (s.withResult1 b0).hostSeen = s.hostSeen := rfl

/-! ### State.withResult2 -/

@[simp] theorem State.withResult2_pending (b0 b1 : Byte) : (s.withResult2 b0 b1).pending = s.pending := rfl
@[simp] theorem State.withResult2_sticky (b0 b1 : Byte) : (s.withResult2 b0 b1).sticky = s.sticky := rfl
@[simp] theorem State.withResult2_err (b0 b1 : Byte) : (s.withResult2 b0 b1).err = s.err := rfl
@[simp] theorem State.withResult2_acc (b0 b1 : Byte) : (s.withResult2 b0 b1).acc = s.acc := rfl
@[simp] theorem State.withResult2_result (b0 b1 : Byte) : (s.withResult2 b0 b1).result = ⟨b0, b1, 0x00, 2⟩ := rfl
@[simp] theorem State.withResult2_cmdbuf (b0 b1 : Byte) : (s.withResult2 b0 b1).cmdbuf = s.cmdbuf := rfl
@[simp] theorem State.withResult2_latch (b0 b1 : Byte) : (s.withResult2 b0 b1).latch = s.latch := rfl
@[simp] theorem State.withResult2_ibuf (b0 b1 : Byte) : (s.withResult2 b0 b1).ibuf = s.ibuf := rfl
@[simp] theorem State.withResult2_outq (b0 b1 : Byte) : (s.withResult2 b0 b1).outq = s.outq := rfl
@[simp] theorem State.withResult2_fault (b0 b1 : Byte) : (s.withResult2 b0 b1).fault = s.fault := rfl
@[simp] theorem State.withResult2_hostPlan (b0 b1 : Byte) : (s.withResult2 b0 b1).hostPlan = s.hostPlan := rfl
@[simp] theorem State.withResult2_hostSeen (b0 b1 : Byte) : (s.withResult2 b0 b1).hostSeen = s.hostSeen := rfl

/-! ### State.withResult3 -/

@[simp] theorem State.withResult3_pending (b0 b1 b2 : Byte) : (s.withResult3 b0 b1 b2).pending = s.pending := rfl
@[simp] theorem State.withResult3_sticky (b0 b1 b2 : Byte) : (s.withResult3 b0 b1 b2).sticky = s.sticky := rfl
@[simp] theorem State.withResult3_err (b0 b1 b2 : Byte) : (s.withResult3 b0 b1 b2).err = s.err := rfl
@[simp] theorem State.withResult3_acc (b0 b1 b2 : Byte) : (s.withResult3 b0 b1 b2).acc = s.acc := rfl
@[simp] theorem State.withResult3_result (b0 b1 b2 : Byte) : (s.withResult3 b0 b1 b2).result = ⟨b0, b1, b2, 3⟩ := rfl
@[simp] theorem State.withResult3_cmdbuf (b0 b1 b2 : Byte) : (s.withResult3 b0 b1 b2).cmdbuf = s.cmdbuf := rfl
@[simp] theorem State.withResult3_latch (b0 b1 b2 : Byte) : (s.withResult3 b0 b1 b2).latch = s.latch := rfl
@[simp] theorem State.withResult3_ibuf (b0 b1 b2 : Byte) : (s.withResult3 b0 b1 b2).ibuf = s.ibuf := rfl
@[simp] theorem State.withResult3_outq (b0 b1 b2 : Byte) : (s.withResult3 b0 b1 b2).outq = s.outq := rfl
@[simp] theorem State.withResult3_fault (b0 b1 b2 : Byte) : (s.withResult3 b0 b1 b2).fault = s.fault := rfl
@[simp] theorem State.withResult3_hostPlan (b0 b1 b2 : Byte) : (s.withResult3 b0 b1 b2).hostPlan = s.hostPlan := rfl
@[simp] theorem State.withResult3_hostSeen (b0 b1 b2 : Byte) : (s.withResult3 b0 b1 b2).hostSeen = s.hostSeen := rfl

/-! ### State.popped -/

@[simp] theorem State.popped_pending : (s.popped).pending = s.pending := rfl
@[simp] theorem State.popped_sticky : (s.popped).sticky = s.sticky := rfl
@[simp] theorem State.popped_err : (s.popped).err = s.err := rfl
@[simp] theorem State.popped_acc : (s.popped).acc = s.acc := rfl
@[simp] theorem State.popped_result : (s.popped).result = s.result := rfl
@[simp] theorem State.popped_cmdbuf : (s.popped).cmdbuf = s.cmdbuf := rfl
@[simp] theorem State.popped_latch : (s.popped).latch = s.latch := rfl
@[simp] theorem State.popped_ibuf : (s.popped).ibuf = s.ibuf := rfl
@[simp] theorem State.popped_outq : (s.popped).outq = s.outq.tail := rfl
@[simp] theorem State.popped_fault : (s.popped).fault = s.fault := rfl
@[simp] theorem State.popped_hostPlan : (s.popped).hostPlan = s.hostPlan := rfl
@[simp] theorem State.popped_hostSeen : (s.popped).hostSeen = s.hostSeen := rfl

/-! ### State.noted -/

@[simp] theorem State.noted_pending (x : HostSeen) : (s.noted x).pending = s.pending := rfl
@[simp] theorem State.noted_sticky (x : HostSeen) : (s.noted x).sticky = s.sticky := rfl
@[simp] theorem State.noted_err (x : HostSeen) : (s.noted x).err = s.err := rfl
@[simp] theorem State.noted_acc (x : HostSeen) : (s.noted x).acc = s.acc := rfl
@[simp] theorem State.noted_result (x : HostSeen) : (s.noted x).result = s.result := rfl
@[simp] theorem State.noted_cmdbuf (x : HostSeen) : (s.noted x).cmdbuf = s.cmdbuf := rfl
@[simp] theorem State.noted_latch (x : HostSeen) : (s.noted x).latch = s.latch := rfl
@[simp] theorem State.noted_ibuf (x : HostSeen) : (s.noted x).ibuf = s.ibuf := rfl
@[simp] theorem State.noted_outq (x : HostSeen) : (s.noted x).outq = s.outq := rfl
@[simp] theorem State.noted_fault (x : HostSeen) : (s.noted x).fault = s.fault := rfl
@[simp] theorem State.noted_hostPlan (x : HostSeen) : (s.noted x).hostPlan = s.hostPlan := rfl
@[simp] theorem State.noted_hostSeen (x : HostSeen) : (s.noted x).hostSeen = s.hostSeen ++ [x] := rfl

/-! ### State.blockReset -/

@[simp] theorem State.blockReset_pending : (s.blockReset).pending = false := rfl
@[simp] theorem State.blockReset_sticky : (s.blockReset).sticky = false := rfl
@[simp] theorem State.blockReset_err : (s.blockReset).err = 0x00 := rfl
@[simp] theorem State.blockReset_acc : (s.blockReset).acc = 0x0000 := rfl
@[simp] theorem State.blockReset_result : (s.blockReset).result = ⟨0x00, 0x00, 0x00, 0⟩ := rfl
@[simp] theorem State.blockReset_cmdbuf : (s.blockReset).cmdbuf = [] := rfl
@[simp] theorem State.blockReset_latch : (s.blockReset).latch = none := rfl
@[simp] theorem State.blockReset_ibuf : (s.blockReset).ibuf = [] := rfl
@[simp] theorem State.blockReset_outq : (s.blockReset).outq = [] := rfl
@[simp] theorem State.blockReset_fault : (s.blockReset).fault = s.fault := rfl
@[simp] theorem State.blockReset_hostPlan : (s.blockReset).hostPlan = s.hostPlan := rfl
@[simp] theorem State.blockReset_hostSeen : (s.blockReset).hostSeen = s.hostSeen := rfl

/-! ### State.withFetchWord -/

@[simp] theorem State.withFetchWord_pending (n w : Nat) : (s.withFetchWord n w).pending = true := rfl
@[simp] theorem State.withFetchWord_sticky (n w : Nat) : (s.withFetchWord n w).sticky = s.sticky := rfl
@[simp] theorem State.withFetchWord_err (n w : Nat) : (s.withFetchWord n w).err = s.err := rfl
@[simp] theorem State.withFetchWord_acc (n w : Nat) : (s.withFetchWord n w).acc = s.acc := rfl
@[simp] theorem State.withFetchWord_result (n w : Nat) : (s.withFetchWord n w).result = s.result := rfl
@[simp] theorem State.withFetchWord_cmdbuf (n w : Nat) : (s.withFetchWord n w).cmdbuf = s.cmdbuf := rfl
@[simp] theorem State.withFetchWord_latch (n w : Nat) : (s.withFetchWord n w).latch = some (latchOf (descriptorBytes Config.cmdbufSize (w % 2 ^ n))) := rfl
@[simp] theorem State.withFetchWord_ibuf (n w : Nat) : (s.withFetchWord n w).ibuf = s.ibuf := rfl
@[simp] theorem State.withFetchWord_outq (n w : Nat) : (s.withFetchWord n w).outq = s.outq := rfl
@[simp] theorem State.withFetchWord_fault (n w : Nat) : (s.withFetchWord n w).fault = none := rfl
@[simp] theorem State.withFetchWord_hostPlan (n w : Nat) : (s.withFetchWord n w).hostPlan = [] := rfl
@[simp] theorem State.withFetchWord_hostSeen (n w : Nat) : (s.withFetchWord n w).hostSeen = s.hostSeen := rfl

/-! ### State.withVarLen: RESULT only -/

theorem State.withVarLen_eq (v : Nat) : ∃ r : Result, s.withVarLen v = { s with result := r } := by
  unfold State.withVarLen
  split
  · exact ⟨_, rfl⟩
  · exact ⟨_, rfl⟩
  · exact ⟨_, rfl⟩
  · exact ⟨s.result, rfl⟩

end Sys2Proof.Machine
end

