-- ==== Sys2Proof/Laws/Ops.lean ====
section
/-! SUPPORT. One lemma per shared operation, saying everything it can answer. -/

namespace Sys2Proof.Machine

/-- Free slots, as R46 counts them. -/
theorem hasRoom_iff {k : Nat} {s : State} : hasRoom k s = true ↔ s.outq.length + k ≤ Config.outqCapacity := by
  have := Config.outqCapacity_bounds
  simp only [hasRoom, Bool.or_eq_true, decide_eq_true_eq]
  omega

/-- `emit` with room: the frames at the tail, and completion (R46, R175). -/
theorem emit_of_room {frames : List Frame} {s : State} (h : s.outq.length + frames.length ≤ Config.outqCapacity) :
    emit frames s = .next ({ s with outq := s.outq ++ frames } : State).completed := by
  unfold emit
  rw [if_pos (hasRoom_iff.2 h)]
  rfl

/-- `emit` without room holds (R46). -/
theorem emit_of_no_room {frames : List Frame} {s : State}
    (h : Config.outqCapacity < s.outq.length + frames.length) : emit frames s = .next s := by
  unfold emit
  rw [if_neg (fun c => absurd (hasRoom_iff.1 c) (by omega))]
  rfl

/-- `inRange` is R42's condition. -/
theorem inRange_iff {a n : Nat} : inRange a n = true ↔ a + n ≤ 65536 := by
  unfold inRange Config.ibufSize
  exact decide_eq_true_iff

theorem withRange_of_le {a n : Nat} {s : State} {use : Outcome} (h : a + n ≤ 65536) :
    withRange a n s use = use := by
  unfold withRange
  rw [if_pos (inRange_iff.2 h)]

theorem withRange_of_gt {a n : Nat} {s : State} {use : Outcome} (h : 65536 < a + n) :
    withRange a n s use = raise .invalidParameter s := by
  unfold withRange
  rw [if_neg (fun c => absurd (inRange_iff.1 c) (by omega))]

/-- `withBytes` on written bytes hands them over (R43). -/
theorem withBytes_of_read {a n : Nat} {s : State} {use : List Byte → Outcome} {bs : List Byte}
    (hl : bs.length = n) (h : ∀ k, k < n → Memory.read s.ibuf (a + k) = bs[k]?) :
    withBytes a n s use = use bs := by
  simp only [withBytes, Memory.readRange_some.2 ⟨hl, h⟩]

/-- `withBytes` on a range with an unwritten byte is the model fault (R43). -/
theorem withBytes_of_gap {a n : Nat} {s : State} {use : List Byte → Outcome}
    (h : ∃ k, k < n ∧ Memory.read s.ibuf (a + k) = none) :
    withBytes a n s use = .fault .unwrittenRead := by
  simp only [withBytes, Memory.readRange_none.2 h]

/-- Everything `withBytes` can answer. -/
theorem withBytes_cases (a n : Nat) (s : State) (use : List Byte → Outcome) :
    (withBytes a n s use = .fault .unwrittenRead) ∨
    ∃ bs : List Byte, bs.length = n ∧ (∀ k, k < n → Memory.read s.ibuf (a + k) = bs[k]?) ∧
      withBytes a n s use = use bs := by
  cases h : Memory.readRange s.ibuf a n with
  | none => exact .inl (by simp only [withBytes, h])
  | some bs =>
    obtain ⟨hl, hr⟩ := Memory.readRange_some.1 h
    exact .inr ⟨bs, hl, hr, by simp only [withBytes, h]⟩

end Sys2Proof.Machine
end

