-- ==== Sys2Proof/Laws/Exec.lean ====
section
/-! SUPPORT. What a command can do at all: one inversion lemma for `exec`, from which its frame follows. -/

namespace Sys2Proof.Machine

/-- Every way a command's execution from `s` can end. -/
inductive Ends (s : State) : Outcome → Prop where
  /-- an error other than IllegalCommand (R174) -/
  | failed (e : CmdError) (h : e ≠ .illegalCommand) : Ends s (.next (s.failed e))
  /-- the command holds for queue space (R46) -/
  | held : Ends s (.next s)
  /-- a model fault (R43) -/
  | faulted : Ends s (.fault .unwrittenRead)
  /-- completion with ACC or RESULT written (R175) -/
  | wrote (acc : Half) (r : Result) : Ends s (.next ({ s with acc := acc, result := r } : State).completed)
  /-- completion with frames emitted (R46, R175) -/
  | emitted (frames : List Frame) (room : s.outq.length + frames.length ≤ Config.outqCapacity) :
    Ends s (.next ({ s with outq := s.outq ++ frames } : State).completed)

theorem ends_raise {s : State} {e : CmdError} (h : e ≠ .illegalCommand) : Ends s (raise e s) := .failed e h

theorem ends_emit (frames : List Frame) (s : State) : Ends s (emit frames s) := by
  by_cases h : s.outq.length + frames.length ≤ Config.outqCapacity
  · rw [emit_of_room h]
    exact .emitted frames h
  · rw [emit_of_no_room (by omega)]
    exact .held

theorem ends_withRange {a n : Nat} {s : State} {use : Outcome} (h : Ends s use) : Ends s (withRange a n s use) := by
  unfold withRange
  split
  · exact h
  · exact ends_raise (by decide)

theorem ends_withBytes {a n : Nat} {s : State} {use : List Byte → Outcome} (h : ∀ bs, Ends s (use bs)) :
    Ends s (withBytes a n s use) := by
  obtain e | ⟨bs, -, -, e⟩ := withBytes_cases a n s use <;> rw [e]
  · exact .faulted
  · exact h bs

theorem ends_withTransfer {len : Nat} {s : State} {use : Outcome} (h : Ends s use) :
    Ends s (withTransfer len s use) := by
  unfold withTransfer
  split
  · exact ends_raise (by decide)
  · split
    · exact ends_raise (by decide)
    · exact h

theorem ends_emitBitmap (seq : Half) (r g b : Byte) (x0 y0 w h : Nat) (pix : Pix) (s : State) :
    Ends s (emitBitmap seq r g b x0 y0 w h pix s) := by
  unfold emitBitmap
  split
  · exact ends_raise (by decide)
  · exact ends_emit _ s

/-- Every command ends in one of the ways of `Ends`. -/
theorem exec_ends (i : Instr) (s : State) : Ends s (exec i s) := by
  cases i with
  | ckclr => exact .wrote 0x0000 s.result
  | ckfeed addr len => exact ends_withRange (ends_withBytes fun bs => .wrote _ s.result)
  | cktrail => exact .wrote s.acc _
  | sum8 addr len => exact ends_withRange (ends_withBytes fun bs => .wrote s.acc _)
  | hisum addr len => exact ends_withRange (ends_withBytes fun bs => .wrote s.acc _)
  | ckpair addr len => exact ends_withRange (ends_withBytes fun bs => .wrote s.acc _)
  | pktReset => exact ends_emit _ s
  | pktReady => exact ends_emit _ s
  | pktUc => exact ends_emit _ s
  | pktBright level =>
    show Ends s (execPktBright level s)
    unfold execPktBright
    split
    · exact ends_raise (by decide)
    · exact ends_emit _ s
  | chunk addr len index =>
    show Ends s (execChunk addr len index s)
    refine ends_withRange (ends_withTransfer ?_)
    split
    · exact ends_raise (by decide)
    · exact ends_withBytes fun bs => ends_emit _ s
  | uploadSeq addr len => exact ends_withRange (ends_withTransfer (ends_withBytes fun bs => ends_emit _ s))
  | fillrect seq r g b x0 y0 x1 y1 =>
    show Ends s (execFillrect seq r g b x0 y0 x1 y1 s)
    unfold execFillrect
    split
    · exact ends_raise (by decide)
    · exact ends_emit _ s
  | bitmap seq r g b x0 y0 w h addr =>
    show Ends s (execBitmap seq r g b x0 y0 w h addr s)
    unfold execBitmap
    split
    · exact ends_raise (by decide)
    · split
      · exact ends_raise (by decide)
      · refine ends_withRange (ends_withBytes fun m => ?_)
        split
        · exact ends_emitBitmap ..
        · exact ends_raise (by decide)
  | pixels seq r g b addr count =>
    show Ends s (execPixels seq r g b addr count s)
    refine ends_withRange ?_
    split
    · exact ends_raise (by decide)
    · exact ends_withBytes fun bs => ends_emitBitmap ..
  | varlen v =>
    show Ends s (execVarlen v s)
    unfold execVarlen
    split
    · exact ends_raise (by decide)
    · obtain ⟨r, e⟩ := State.withVarLen_eq s v.toNat
      rw [e]
      exact .wrote s.acc r

/-- No command is refused. -/
theorem exec_not_refused (i : Instr) (s : State) (r : Refusal) : exec i s ≠ .refused r := by
  intro h
  have := exec_ends i s
  rw [h] at this
  cases this

end Sys2Proof.Machine
end

