-- ==== Sys2Proof/Laws/PerInstr.lean ====
section
/-! SUPPORT. Facts about every command as syntax, one lemma per constructor. -/

namespace Sys2Proof.Laws

/-- R60: a command's descriptor has from 1 to 16 bytes, and byte 0 is its opcode. -/
def DescriptorShape.Statement (i : Instr) : Prop :=
  (encode i)[0]? = some i.opcode.code ∧ 1 ≤ (encode i).length ∧ (encode i).length ≤ Config.cmdbufSize

theorem DescriptorShape.ckclr : DescriptorShape.Statement .ckclr := by
  refine ⟨rfl, ?_⟩
  decide

theorem DescriptorShape.ckfeed (addr len : Half) : DescriptorShape.Statement (.ckfeed addr len) :=
  ⟨rfl, Nat.succ_pos _, (by decide : (5 : Nat) ≤ 16)⟩

theorem DescriptorShape.cktrail : DescriptorShape.Statement .cktrail := by
  refine ⟨rfl, ?_⟩
  decide

theorem DescriptorShape.sum8 (addr len : Half) : DescriptorShape.Statement (.sum8 addr len) :=
  ⟨rfl, Nat.succ_pos _, (by decide : (5 : Nat) ≤ 16)⟩

theorem DescriptorShape.hisum (addr len : Half) : DescriptorShape.Statement (.hisum addr len) :=
  ⟨rfl, Nat.succ_pos _, (by decide : (5 : Nat) ≤ 16)⟩

theorem DescriptorShape.ckpair (addr len : Half) : DescriptorShape.Statement (.ckpair addr len) :=
  ⟨rfl, Nat.succ_pos _, (by decide : (5 : Nat) ≤ 16)⟩

theorem DescriptorShape.pktReset : DescriptorShape.Statement .pktReset := by
  refine ⟨rfl, ?_⟩
  decide

theorem DescriptorShape.pktReady : DescriptorShape.Statement .pktReady := by
  refine ⟨rfl, ?_⟩
  decide

theorem DescriptorShape.pktUc : DescriptorShape.Statement .pktUc := by
  refine ⟨rfl, ?_⟩
  decide

theorem DescriptorShape.pktBright (level : Byte) : DescriptorShape.Statement (.pktBright level) :=
  ⟨rfl, Nat.succ_pos _, (by decide : (2 : Nat) ≤ 16)⟩

theorem DescriptorShape.chunk (addr len index : Half) : DescriptorShape.Statement (.chunk addr len index) :=
  ⟨rfl, Nat.succ_pos _, (by decide : (7 : Nat) ≤ 16)⟩

theorem DescriptorShape.uploadSeq (addr len : Half) : DescriptorShape.Statement (.uploadSeq addr len) :=
  ⟨rfl, Nat.succ_pos _, (by decide : (5 : Nat) ≤ 16)⟩

theorem DescriptorShape.fillrect (seq : Half) (r g b : Byte) (x0 y0 x1 y1 : Half) :
    DescriptorShape.Statement (.fillrect seq r g b x0 y0 x1 y1) :=
  ⟨rfl, Nat.succ_pos _, (by decide : (14 : Nat) ≤ 16)⟩

theorem DescriptorShape.bitmap (seq : Half) (r g b : Byte) (x0 y0 w h addr : Half) :
    DescriptorShape.Statement (.bitmap seq r g b x0 y0 w h addr) :=
  ⟨rfl, Nat.succ_pos _, (by decide : (16 : Nat) ≤ 16)⟩

theorem DescriptorShape.pixels (seq : Half) (r g b : Byte) (addr count : Half) :
    DescriptorShape.Statement (.pixels seq r g b addr count) :=
  ⟨rfl, Nat.succ_pos _, (by decide : (10 : Nat) ≤ 16)⟩

theorem DescriptorShape.varlen (v : Word24) : DescriptorShape.Statement (.varlen v) :=
  ⟨rfl, Nat.succ_pos _, (by decide : (4 : Nat) ≤ 16)⟩

end Sys2Proof.Laws
end

