-- ==== Sys2Proof/Laws/Step.lean ====
section
/-! SUPPORT. What one step can do, said once. -/

namespace Sys2Proof.Machine

/-- Everything a step can answer: a recorded fault stops it; otherwise it is the move, with a model fault of the move
recorded (R178). -/
theorem step_cases (s : State) :
    (∃ f, s.fault = some f ∧ step s = .fault f) ∨
    (s.fault = none ∧ step s = recordFault s (move s)) := by
  unfold step guarded
  cases h : s.fault with
  | none => exact .inr ⟨rfl, rfl⟩
  | some f => exact .inl ⟨f, rfl, rfl⟩

/-- With the block to move and a command pending, a step is that command's, under every plan of the host. -/
theorem step_of_turn {s s' : State} (hf : s.fault = none) (hp : s.pending = true) (turn : BlockTurn s s') :
    step s = recordFault s (runPending s') := by
  rcases turn with ⟨h, rfl⟩ | ⟨plan, h, rfl⟩ | ⟨plan, h, rfl⟩ <;>
    simp only [step, guarded, hf, move, h, hp, blockStep, if_true]

/-- The pending command's step: a fault for an unwritten descriptor byte, IllegalCommand, or a command's execution. -/
theorem runPending_cases (s : State) :
    (runPending s = .fault .unwrittenRead) ∨ (runPending s = .next (s.failed .illegalCommand)) ∨
    ∃ i, fetch s = .command i ∧ runPending s = exec i s := by
  unfold runPending
  cases h : fetch s with
  | unwritten => exact .inl rfl
  | illegal => exact .inr (.inl rfl)
  | command i => exact .inr (.inr ⟨i, rfl, rfl⟩)

/-- No step is refused: the move's outcomes are next states and model faults. -/
theorem blockStep_not_refused (s : State) (r : Refusal) : blockStep s ≠ .refused r := by
  unfold blockStep
  split
  · obtain e | e | ⟨i, -, e⟩ := runPending_cases s <;> rw [e]
    · simp
    · simp
    · exact exec_not_refused i s r
  · simp

end Sys2Proof.Machine
end

