-- ==== Sys2Proof/Tests/Slice0.lean ====
section
/-! SUPPORT. Tests of the model on fixed values, with the expected values taken from spec/95_test_vectors.md or worked out
by hand from the rule cited, and a witness for the hypotheses of every statement that has some. -/

namespace Sys2Proof.Tests

open Sys2Proof.Machine

/-! ### Small states -/

/-- The state after a move, if it gives one. -/
def after (o : Outcome) : Option State :=
  match o with
  | .next t => some t
  | _ => none

/-- The reset state with bytes in IBUF from address 0 (the host has written them). -/
def withIbuf (bs : List Byte) : State := { State.reset with ibuf := latchOf bs }

/-- The reset state with one byte in IBUF. -/
def withByte (a : Nat) (b : Byte) : State := { State.reset with ibuf := [(a, b)] }

/-- The reset state with a command pending and these descriptor bytes written. -/
def started (bs : List Byte) : State := { State.reset with pending := true, latch := some (latchOf bs) }

/-- The reset state with `n` frames queued. -/
def queued (n : Nat) : State := { State.reset with outq := List.replicate n [] }

theorem length_queued (n : Nat) : (queued n).outq.length = n := List.length_replicate ..

/-- Bytes 0..13 of the level-0 Brightness packet (V-CK-9). -/
def bright14 : List Byte := [0xAA, 0x55, 0xFF, 0xFF, 0x0A, 0x00, 0x04, 0x00, 0xC1, 0x02, 0x06, 0x02, 0x00, 0x00]

/-- One register of a state, as the host reads it. -/
def reads (offset : Byte) (s : State) : Option Word :=
  match hostRead (.reg .w32 offset) s with
  | .ok v => some v
  | .error _ => none

/-! ### Decoding: words written out from R63 and R65 -/

theorem test_decode_ckclr : decode [0x01, 0x77] = .ok (.ckclr, [0x77]) := by decide
theorem test_decode_ckfeed : decode [0x02, 0x07, 0x01, 0x0E, 0x02] = .ok (.ckfeed 0x0107 0x020E, []) := by decide
theorem test_decode_cktrail : decode [0x03] = .ok (.cktrail, []) := by decide
theorem test_decode_sum8 : decode [0x04, 0xFF, 0xFF, 0x01, 0x00] = .ok (.sum8 0xFFFF 1, []) := by decide
theorem test_decode_hisum : decode [0x05, 0x00, 0x00, 0x0E, 0x00] = .ok (.hisum 0 14, []) := by decide
theorem test_decode_ckpair : decode [0x06, 0x34, 0x12, 0x78, 0x56] = .ok (.ckpair 0x1234 0x5678, []) := by decide
theorem test_decode_pktReset : decode [0x10] = .ok (.pktReset, []) := by decide
theorem test_decode_pktReady : decode [0x11] = .ok (.pktReady, []) := by decide
theorem test_decode_pktUc : decode [0x12] = .ok (.pktUc, []) := by decide
theorem test_decode_pktBright : decode [0x13, 0x0F] = .ok (.pktBright 15, []) := by decide
theorem test_decode_chunk : decode [0x20, 0x00, 0x00, 0x60, 0xEA, 0xE7, 0x03] = .ok (.chunk 0 60000 999, []) := by decide
theorem test_decode_uploadSeq : decode [0x21, 0x00, 0x40, 0x3D, 0xC3] = .ok (.uploadSeq 0x4000 49981, []) := by decide
theorem test_decode_fillrect :
    decode [0x30, 0x00, 0x00, 0xFF, 0x00, 0x00, 0x00, 0x00, 0x00, 0x00, 0x5F, 0x00, 0x7F, 0x00] =
      .ok (.fillrect 0 255 0 0 0 0 95 127, []) := by decide
theorem test_decode_bitmap :
    decode [0x31, 0x34, 0x12, 0x01, 0x02, 0x03, 0x05, 0x04, 0x07, 0x06, 0x09, 0x08, 0x0B, 0x0A, 0x0D, 0x0C] =
      .ok (.bitmap 0x1234 1 2 3 0x0405 0x0607 0x0809 0x0A0B 0x0C0D, []) := by decide
theorem test_decode_pixels :
    decode [0x32, 0x00, 0x00, 0x00, 0x00, 0x00, 0xFD, 0xFF, 0x01, 0x00] = .ok (.pixels 0 0 0 0 0xFFFD 1, []) := by decide
theorem test_decode_varlen : decode [0x38, 0x2C, 0x01, 0x80] = .ok (.varlen 0x80012C, []) := by decide

/-- R66: V-ER-2's opcodes and 0x00 are no opcodes; the neighbours of each illegal range are. -/
theorem test_decode_illegal :
    [0x00, 0x07, 0x0F, 0x14, 0x1F, 0x22, 0x2F, 0x33, 0x37, 0x39, 0xFF].map Opcode.ofByte = List.replicate 11 none ∧
    [0x01, 0x06, 0x10, 0x13, 0x20, 0x21, 0x30, 0x32, 0x38].map Opcode.ofByte =
      [some .ckclr, some .ckpair, some .pktReset, some .pktBright, some .chunk, some .uploadSeq, some .fillrect,
        some .pixels, some .varlen] := by decide

theorem test_decode_short : decode [0x13] = .error (.truncated .pktBright) ∧ decode [0x07, 0x01] = .error (.illegalOpcode 0x07) ∧
    decode [] = .error .noOpcode := by decide

/-- R64: the second byte of a table word is bits 15..8. -/
theorem test_decodeTableWord : decodeTableWord 40 0x0004000702 = some (.ckfeed 7 4) ∧
    decodeTableWord 8 0x13 = some (.pktBright 0) ∧ decodeTableWord 8 0x07 = none := by decide

/-! ### What an assembler refuses (R68) -/

theorem test_wellFormed_accepts : (AsmLine.cmd .pktBright [255]).wellFormed = true ∧
    (AsmLine.cmd .ckfeed [65535, 65535]).wellFormed = true ∧ (AsmLine.cmd .varlen [16777215]).wellFormed = true ∧
    (AsmLine.ibw 65534 [255, 0]).wellFormed = true ∧ (AsmLine.cksum 65535 65535).wellFormed = true ∧
    (AsmLine.check 255).wellFormed = true ∧ AsmLine.pop.wellFormed = true := by decide
theorem test_wellFormed_operand_missing : (AsmLine.cmd .ckfeed [1]).wellFormed = false := by decide
theorem test_wellFormed_operand_extra : (AsmLine.cmd .ckclr [1]).wellFormed = false := by decide
theorem test_wellFormed_imm8 : (AsmLine.cmd .pktBright [256]).wellFormed = false := by decide
theorem test_wellFormed_le16 : (AsmLine.cmd .ckfeed [0, 65536]).wellFormed = false := by decide
theorem test_wellFormed_le24 : (AsmLine.cmd .varlen [16777216]).wellFormed = false := by decide
theorem test_wellFormed_ibw_byte : (AsmLine.ibw 0 [256]).wellFormed = false := by decide
theorem test_wellFormed_ibw_end : (AsmLine.ibw 65535 [1, 2]).wellFormed = false := by decide
theorem test_wellFormed_cksum : (AsmLine.cksum 65536 0).wellFormed = false ∧ (AsmLine.cksum 0 65536).wellFormed = false := by
  decide
theorem test_wellFormed_check : (AsmLine.check 256).wellFormed = false := by decide
theorem test_ill_formed_has_no_events : lineEvents (.cmd .pktBright [256]) = none ∧ lineEvents (.ibw 65535 [1, 2]) = none := by
  decide

/-! ### Checksum generator (95_test_vectors.md 2.1) -/

/-- V-CK-17. -/
theorem test_ckclr : (after (exec .ckclr { State.reset with acc := 0x2AD4, result := ⟨1, 2, 3, 3⟩ })).map
    (fun t => (t.acc, t.result)) = some (0x0000, ⟨1, 2, 3, 3⟩) := by decide

/-- V-CK-12: the accumulator wraps. -/
theorem test_ckfeed_wraps : (after (exec (.ckfeed 0 1) { withByte 0 0x01 with acc := 0xFFFF })).map
    (fun t => (t.acc, t.err)) = some (0x0000, 0x00) := by decide

/-- V-CK-18: ACC after the first feed of seven bytes. -/
theorem test_ckfeed_seven : (after (exec (.ckfeed 0 7) (withIbuf bright14))).map (fun t => t.acc) = some 0x030B := by decide

/-- V-CK-10, as the host reads RESULT. -/
theorem test_cktrail : (after (exec .cktrail { State.reset with acc := 0x03D6 })).map (reads 0x08) =
    some (some 0x020004D6) := by decide

/-- V-CK-11: the INCLUSIVE second checksum wraps at 65536. -/
theorem test_cktrail_wraps : (after (exec .cktrail { State.reset with acc := 0xFF80 })).map (fun t => t.result) =
    some ⟨0x80, 0x00, 0x00, 2⟩ := by decide

/-- V-CK-4. -/
theorem test_sum8 : (after (exec (.sum8 0 2) (withIbuf [0xFF, 0x01]))).map (fun t => t.result) =
    some ⟨0x00, 0x00, 0x00, 1⟩ := by decide

/-- V-CK-15: the last byte of IBUF is in range. -/
theorem test_sum8_last_byte : (after (exec (.sum8 0xFFFF 1) (withByte 65535 0x09))).map (fun t => (t.err, t.result)) =
    some (0x00, ⟨0x09, 0x00, 0x00, 1⟩) := by decide

/-- V-CK-4. -/
theorem test_hisum : (after (exec (.hisum 0 2) (withIbuf [0xFF, 0x01]))).map (fun t => t.result) =
    some ⟨0x01, 0x00, 0x00, 1⟩ := by decide

/-- P1 of 95_test_vectors.md, its HISUM line. -/
theorem test_hisum_brightness : (after (exec (.hisum 0 14) (withIbuf bright14))).map (reads 0x08) =
    some (some 0x01000003) := by decide

/-- V-CK-3. -/
theorem test_ckpair : (after (exec (.ckpair 0 1) (withByte 0 0x80))).map (fun t => t.result) =
    some ⟨0x80, 0x01, 0x00, 2⟩ := by decide

/-- V-CK-9. -/
theorem test_ckpair_brightness : (after (exec (.ckpair 0 14) (withIbuf bright14))).map (fun t => t.result) =
    some ⟨0xD6, 0x04, 0x00, 2⟩ := by decide

/-! ### Packet framer (95_test_vectors.md 2.2): the bytes that depend on no OPEN parameter -/

/-- V-PF-1. -/
theorem test_pktReset : (after (exec .pktReset State.reset)).map
    (fun t => t.outq.map (fun f => (f.take 4, f.length))) = some [([0xAA, 0x55, 0xFF, 0xFF], 16)] := by decide

/-- V-PF-2. -/
theorem test_pktReady : (after (exec .pktReady State.reset)).map
    (fun t => t.outq.map (fun f => (f.take 4, f.length))) = some [([0xAA, 0x55, 0xFF, 0xFF], 16)] := by decide

/-- V-PF-3. -/
theorem test_pktUc : (after (exec .pktUc State.reset)).map
    (fun t => t.outq.map (fun f => (f.take 4, f.length))) = some [([0xAA, 0x55, 0xFF, 0xFF], 17)] := by decide

/-- V-PF-5: the highest level accepted. -/
theorem test_pktBright : (after (exec (.pktBright 15) State.reset)).map (fun t => t.outq) =
    some [[0xAA, 0x55, 0xFF, 0xFF, 0x0A, 0x00, 0x04, 0x00, 0xC1, 0x02, 0x06, 0x02, 0x00, 0x0F, 0xE5, 0x03]] := by decide

/-- V-PF-6 and V-ER-4: the lowest level refused, and STATUS after it. -/
theorem test_pktBright_refused : (after (exec (.pktBright 16) State.reset)).map (fun t => (reads 0x00 t, t.outq)) =
    some (some 0x00000102, []) := by decide

/-! ### Chunk codec (95_test_vectors.md 2.3) -/

/-- V-CH-1: bytes 27..34. -/
theorem test_chunk : (after (exec (.chunk 0 1 0) (withByte 0 0x5A))).map
    (fun t => t.outq.map (fun f => (f.drop 27).take 8)) =
    some [[0xED, 0x00, 0x00, 0x00, 0x00, 0x00, 0x00, 0x01]] := by decide

/-- V-CH-4, chunk 1: it reads IBUF[196] only. -/
theorem test_chunk_second_window : (after (exec (.chunk 0 197 1) (withByte 196 0xEE))).map
    (fun t => t.outq.map (fun f => (f.drop 27).take 8)) =
    some [[0xED, 0x01, 0x00, 0x00, 0x01, 0x00, 0x00, 0x02]] := by decide

/-- R121: the window of V-CH-1 and of V-CH-4's chunk 1. -/
theorem test_windows : window [0x5A] 0 = 0x5A :: List.replicate 195 0x00 ∧
    window (List.replicate 196 0x11 ++ [0xEE]) 1 = 0xEE :: List.replicate 195 0x00 := by decide +kernel

/-- V-CH-6 to V-CH-11 and V-CH-14, by their codes. -/
theorem test_chunk_errors :
    [Instr.chunk 0 49981 0, .chunk 0 0 0, .chunk 0 1 1, .chunk 0xFF00 0x0200 0, .chunk 0 60000 999, .chunk 0xFFFF 0 0,
      .uploadSeq 0 0, .uploadSeq 0 49981, .uploadSeq 0x4000 49981].map
      (fun i => (after (exec i State.reset)).map (fun t => t.err)) =
    [some 0x04, some 0x02, some 0x01, some 0x01, some 0x04, some 0x02, some 0x02, some 0x04, some 0x01] := by decide

/-- V-CH-12: five frames, by the lengths of those before and after the chunk packet. -/
theorem test_uploadSeq : (after (exec (.uploadSeq 0 1) (withByte 0 0x5A))).map
    (fun t => (t.outq.take 2 ++ t.outq.drop 3).map List.length) = some [16, 16, 17, 17] := by decide

/-- V-CH-16: an unwritten blob byte is a model fault for UPLOAD_SEQ. -/
theorem test_uploadSeq_unwritten : exec (.uploadSeq 0 2) (withByte 0 0x5A) = .fault .unwrittenRead := rfl

/-- V-CH-15's shape: with no slot free the command holds, whatever OUTQ_CAPACITY is. -/
theorem test_hold (n : Nat) (h : n = Config.outqCapacity) : exec .pktReset (queued n) = .next (queued n) :=
  emit_of_no_room (frames := [resetPkt]) (by rw [length_queued, List.length_singleton]; omega)

/-! ### Draw encoder (95_test_vectors.md 2.4 and 2.5): the bytes that depend on no OPEN parameter -/

/-- E4: bytes 0..7, 11, 13..15 and 16..23 of the frame. -/
theorem test_fillrect : (after (exec (.fillrect 0 255 0 0 0 0 95 127) State.reset)).map
    (fun t => t.outq.map (fun f => (f.take 8, (f.drop 11).take 1, (f.drop 13).take 11))) =
    some [([0xAA, 0x55, 0xFF, 0xFF, 0x14, 0x00, 0x00, 0x00], [0x0D],
      [0xFF, 0x00, 0x00, 0x00, 0x00, 0x00, 0x00, 0x5F, 0x00, 0x7F, 0x00])] := by decide

/-- V-DR-5. -/
theorem test_fillrect_refused : (after (exec (.fillrect 0 1 1 1 5 0 4 0) State.reset)).map (fun t => (t.err, t.outq)) =
    some (0x01, []) := by decide

/-- E5: width 9 takes two bytes a row. -/
theorem test_pack : pack (fun _ c => c == 8) 9 1 = [0x00, 0x80] ∧ pack (fun _ _ => true) 9 1 = [0xFF, 0x80] := by decide

/-- V-DR-6: length byte and seq, the length value, the colour, and the corners with the bits. -/
theorem test_bitmap : (after (exec (.bitmap 1 0 255 0 10 20 9 2 0) (withIbuf
      [1, 0, 0, 0, 0, 0, 0, 0, 1, 0, 1, 0, 0, 0, 0, 0, 1, 1]))).map
    (fun t => t.outq.map (fun f => ((f.drop 4).take 4, (f.drop 11).take 1, (f.drop 13).take 15, f.length))) =
    some [([0x18, 0x01, 0x00, 0x00], [0x11],
      [0x00, 0xFF, 0x00, 0x0A, 0x00, 0x14, 0x00, 0x12, 0x00, 0x15, 0x00, 0x80, 0x80, 0x41, 0x80], 30)] := by decide

/-- V-DR-9, V-DR-10, V-DR-15 and a range not in range. -/
theorem test_bitmap_errors :
    [Instr.bitmap 0 0 0 0 65535 0 2 1 0, .bitmap 0 0 0 0 0 0 0 1 0, .bitmap 0 0 0 0 0 0 1 0 0, .bitmap 0 0 0 0 0 0 2 1 0,
      .bitmap 0 0 0 0 0 0 256 257 0].map (fun i => (after (exec i (withIbuf [0, 2]))).map (fun t => t.err)) =
    List.replicate 5 (some 0x01) := by decide

/-- V-DR-17: box 5..7 by 5..6, rows 100 and 101. -/
theorem test_pixels : (after (exec (.pixels 0x1234 1 2 3 0 3) (withIbuf [5, 0, 5, 0, 7, 0, 6, 0, 5, 0, 6, 0]))).map
    (fun t => t.outq.map (fun f => ((f.drop 4).take 4, (f.drop 11).take 1, (f.drop 13).take 13))) =
    some [([0x16, 0x34, 0x12, 0x00], [0x0F],
      [0x01, 0x02, 0x03, 0x05, 0x00, 0x05, 0x00, 0x07, 0x00, 0x06, 0x00, 0x80, 0xA0])] := by decide

/-- V-DR-20 and V-DR-21. -/
theorem test_pixels_errors : [Instr.pixels 0 0 0 0 0 0, .pixels 0 0 0 0 0xFFFD 1].map
    (fun i => (after (exec i State.reset)).map (fun t => t.err)) = [some 0x03, some 0x01] := by decide

/-- The table of 2.5, at the ends of each form. -/
theorem test_varlen : [0, 127, 128, 16383, 16384, 2097151].map
    (fun v : Nat => (after (exec (.varlen (.ofNat 24 v)) State.reset)).map (fun t => t.result)) =
    [some ⟨0x00, 0x00, 0x00, 1⟩, some ⟨0x7F, 0x00, 0x00, 1⟩, some ⟨0x80, 0x01, 0x00, 2⟩, some ⟨0xFF, 0x7F, 0x00, 2⟩,
      some ⟨0x80, 0x80, 0x01, 3⟩, some ⟨0xFF, 0xFF, 0x7F, 3⟩] := by decide

/-- 2.5: 2097152 is refused and RESULT stays. -/
theorem test_varlen_refused : (after (exec (.varlen 2097152) { State.reset with result := ⟨1, 0, 0, 1⟩ })).map
    (fun t => (t.err, t.result)) = some (0x01, ⟨1, 0, 0, 1⟩) := by decide

/-! ### Steps, errors and the host port (95_test_vectors.md 2.6) -/

/-- V-ER-1: IllegalCommand, with no other descriptor byte written. -/
theorem test_illegal_opcode : (after (step (started [0x00]))).map (reads 0x00) = some (some 0x00000502) := by decide

/-- V-ER-3: a success keeps STICKY. -/
theorem test_success_keeps_sticky : (after (step { started [0x13, 0x00] with sticky := true, err := 0x05 })).map (reads 0x00) =
    some (some 0x00000002) := by decide

/-- V-PF-8: an unwritten operand byte is a model fault, recorded, and then nothing moves. -/
theorem test_unwritten_descriptor : step (started [0x13]) = .next { started [0x13] with fault := some .unwrittenRead } ∧
    step { started [0x13] with fault := some .unwrittenRead } = .fault .unwrittenRead := ⟨rfl, rfl⟩

/-- V-PF-9: bytes beyond LEN are not read. -/
theorem test_bytes_beyond_length : (after (step (started [0x10]))).map (fun t => (t.outq.length, t.fault)) = some (1, none) := by
  decide

/-- V-ER-5 and V-ER-6: both host hazards. -/
theorem test_host_hazards : hostAct (.write (.reg .w32 0x18 0)) (started [0x10]) = .fault .hostHazard ∧
    hostAct (.write (.ibuf .w8 0 0)) (started [0x10]) = .fault .hostHazard := ⟨rfl, rfl⟩

/-- V-ER-7: a CMDBUF write while a command is pending leaves LATCH. -/
theorem test_cmdbuf_write_pending : (after (hostAct (.write (.reg .w8 0x20 0x13)) (started [0x10]))).map
    (fun t => (t.cmdbuf, t.latch)) = some ([(0, 0x13)], some [(0, 0x10)]) := by decide

/-- V-ER-8. -/
theorem test_reserved_reads : [0x1C, 0x30, 0xFC].map (fun o => reads o (queued 2)) = List.replicate 3 (some 0) := by decide

/-- V-ER-9. -/
theorem test_read_only_writes : [0x00, 0x04, 0x08].map
    (fun o => hostAct (.write (.reg .w32 o 0xFFFFFFFF)) State.reset) = List.replicate 3 (.next State.reset) := rfl

/-- V-ER-10. -/
theorem test_pop_empty : hostAct (.write (.reg .w32 0x14 0)) State.reset = .next State.reset := rfl

/-- V-ER-11. -/
theorem test_out_range : hostAct (.read (.out .w8 0)) State.reset = .fault .outRangeRead ∧
    hostAct (.read (.out .w8 16)) { State.reset with outq := [brightPkt 0] } = .fault .outRangeRead ∧
    (after (hostAct (.read (.out .w8 15)) { State.reset with outq := [brightPkt 0] })).map (fun t => t.hostSeen) =
      some [.word 0x03] := ⟨rfl, rfl, rfl⟩

/-- V-ER-12. -/
theorem test_bad_access : hostAct (.read (.reg .w16 0x00)) State.reset = .fault .badHostAccess ∧
    hostAct (.read (.reg .w32 0x02)) State.reset = .fault .badHostAccess ∧
    hostAct (.write (.reg .w32 0x20 0)) State.reset = .fault .badHostAccess := ⟨rfl, rfl, rfl⟩

/-- V-ER-14: block reset discards a held command. -/
theorem test_reset_while_held : hostAct .blockReset { queued 259 with pending := true, latch := some [(0, 0x10)] } =
    .next State.reset := rfl

/-- R27 and R28: the queue's registers with one Brightness frame queued. -/
theorem test_queue_registers : [0x0C, 0x10].map (fun o => reads o { State.reset with outq := [brightPkt 0] }) =
    [some 1, some 16] := by decide

/-- R68: PKT_BRIGHT 5 as host actions, then the block's step with the host polling. -/
theorem test_command_line : commandEvents (.pktBright 5) =
    [.act (.write (.reg .w8 0x20 0x13)), .act (.write (.reg .w8 0x21 0x05)), .act (.write (.reg .w32 0x18 0)), .poll] := by
  decide

/-- R69: IBW writes b0 at addr and b1 after it; CKSUM is CKCLR and then CKFEED. -/
theorem test_lines : lineEvents (.ibw 0x1FF [0x5A, 0xA5]) =
      some [.act (.write (.ibuf .w8 0x1FF 0x5A)), .act (.write (.ibuf .w8 0x200 0xA5))] ∧
    lineEvents (.cksum 0 7) = some ([.act (.write (.reg .w8 0x20 0x01)), .act (.write (.reg .w32 0x18 0)), .poll] ++
      [.act (.write (.reg .w8 0x20 0x02)), .act (.write (.reg .w8 0x21 0x00)), .act (.write (.reg .w8 0x22 0x00)),
        .act (.write (.reg .w8 0x23 0x07)), .act (.write (.reg .w8 0x24 0x00)), .act (.write (.reg .w32 0x18 0)), .poll]) := by
  decide

/-- R69: POP takes the head frame whole; CHECK compares ERR. -/
theorem test_pop_and_check : (after (step { State.reset with outq := [brightPkt 0, [1]], hostPlan := [.pop] })).map
      (fun t => (t.outq, t.hostSeen)) = some ([[1]], [.frame (brightPkt 0)]) ∧
    (after (step { State.reset with err := 0x01, hostPlan := [.check 0x01] })).map (fun t => t.hostSeen) =
      some [.checked true] := by decide

/-- The placed descriptor is the one the next step runs. -/
theorem test_withFetchWord : (after (step (State.reset.withFetchWord 32 0x00012C38))).map (fun t => t.result) =
    some ⟨0xAC, 0x02, 0x00, 2⟩ := by decide

/-! ### Witnesses: states and operands that meet a statement's hypotheses, a clause's boundary at a time -/

/-- Free slots at reset, up to what UPLOAD_SEQ can need. -/
theorem room_at_reset {k : Nat} {s : State} (h : s.outq.length + k ≤ 259) : Room k s :=
  Nat.le_trans h Config.outqCapacity_bounds.1

/-- The hypothesis `IbufHolds`, as a test that can be computed. -/
theorem holds_of_check {s : State} {a : Nat} {bs : List Byte}
    (h : Memory.readRange s.ibuf a bs.length = some bs) : IbufHolds s a bs :=
  fun k hk => (Memory.readRange_some.1 h).2 k hk

theorem witness_DecodedBytesAreTheDescriptor : decode [0x13, 0x05, 0x09] = .ok (.pktBright 5, [0x09]) := by decide

theorem witness_DescriptorLengthIsTheOpcodes : Memory.read [(0, 0x13), (1, 0x05)] 0 = some Opcode.pktBright.code ∧
    ∀ k, k < Opcode.pktBright.length →
      Memory.read [(0, 0x13), (1, 0x05), (2, 0x09)] k = Memory.read [(0, 0x13), (1, 0x05)] k := by decide

theorem witness_IllegalOpcodesRaiseIllegalCommand :
    ((started [0x39]).fault = none ∧ (started [0x39]).pending = true ∧
      (started [0x39]).latch = some [(0, 0x39)] ∧ Memory.read [(0, 0x39)] 0 = some 0x39 ∧ Opcode.ofByte 0x39 = none) ∧
    Opcode.bitmap.length ≤ (List.replicate 15 (0xFF : Byte)).length + 1 ∧
    (∃ t, exec .ckclr (started [0x01]) = .next t) := ⟨by decide, by decide, _, rfl⟩

/-- Each of the three plans under which the block moves. -/
theorem witness_block_turns (s : State) (plan : List HostEvent) :
    BlockTurn { s with hostPlan := [] } { s with hostPlan := [] } ∧
    BlockTurn { s with hostPlan := .poll :: plan } { s with hostPlan := .poll :: plan } ∧
    BlockTurn { s with hostPlan := .block :: plan } { s with hostPlan := plan } :=
  ⟨.inl ⟨rfl, rfl⟩, .inr (.inl ⟨plan, rfl, rfl⟩), .inr (.inr ⟨plan, rfl, rfl⟩)⟩

theorem witness_StepRunsTheDecodedCommand :
    ((started [0x13, 0x05]).fault = none ∧ (started [0x13, 0x05]).pending = true ∧
      (started [0x13, 0x05]).latch = some [(0, 0x13), (1, 0x05)] ∧ decode [0x13, 0x05] = .ok (.pktBright 5, []) ∧
      (∀ k, k < [0x13, 0x05].length → Memory.read [(0, 0x13), (1, 0x05)] k = ([0x13, 0x05] : List Byte)[k]?)) ∧
    (started [0x13, 0x05]).hostPlan = [] ∧
    ({ started [0x13, 0x05] with hostPlan := [.poll, .pop] } : State).hostPlan = .poll :: [.pop] ∧
    ({ started [0x13, 0x05] with hostPlan := [.block, .pop] } : State).hostPlan = .block :: [.pop] := by decide

theorem witness_UnwrittenDescriptorByteFaults :
    ((started []).pending = true ∧ (started []).latch = some [] ∧ Memory.read [] 0 = none) ∧
    (started [0x13]).latch = some [(0, 0x13)] ∧ Memory.read [(0, 0x13)] 0 = some Opcode.pktBright.code ∧
    1 < Opcode.pktBright.length ∧ Memory.read [(0, 0x13)] 1 = none ∧ (started [0x13]).fault = none ∧
    (started [0x13]).hostPlan = [] := by decide

theorem witness_AssemblerRefusesWideOperands : 255 < 256 ∧ 65535 < 65536 ∧ 2 ^ 24 - 1 < 16777216 ∧
    operandsFit Opcode.fillrect.operandWidths [0, 0, 256, 0, 0, 0, 0, 0] = false ∧
    operandsFit Opcode.chunk.operandWidths [0, 0] = false ∧
    (65535 + [255].length ≤ 65536 ∧ ∀ b, b ∈ [255] → b ≤ 255) ∧
    (65536 < 65535 + [1, 2].length ∧ ∃ b, b ∈ [0, 256] ∧ 255 < b) ∧
    operandsFit Opcode.pktBright.operandWidths [255] = true ∧
    operandsFit Opcode.ckfeed.operandWidths [65535, 65535] = true ∧
    operandsFit Opcode.varlen.operandWidths [16777215] = true :=
  ⟨by decide, by decide, by decide, by decide, by decide, by decide, ⟨by decide, 256, by decide, by decide⟩, by decide,
    by decide, by decide⟩

theorem witness_CommandLineStartsItsCommand :
    ∃ s : State, s.fault = none ∧ s.pending = false ∧ s.hostPlan = commandEvents (.pktBright 5) ++ [.pop] :=
  ⟨{ State.reset with hostPlan := commandEvents (.pktBright 5) ++ [.pop] }, rfl, rfl, rfl⟩

/-- For the items of the host's plan: an action that goes on, one that meets a fault, POP with and without a frame, CHECK of
an equal and of another code, and the end of a poll. -/
theorem witness_host_items :
    (∃ t, hostAct .blockReset State.reset = .next t) ∧
    hostAct (.read (.ibuf .w8 0)) State.reset = .fault .unwrittenRead ∧
    (queued 2).outq = [] :: [[]] ∧ State.reset.outq = [] ∧ State.reset.err = 0x00 ∧ State.reset.err ≠ 0x01 ∧
    State.reset.pending = false :=
  ⟨⟨_, rfl⟩, rfl, rfl, rfl, rfl, by decide, rfl⟩

/-- V-CK-6's sum. -/
theorem witness_SixteenBitAccumulatorSuffices :
    (0x2AD4 : Half).toNat = byteSum (List.replicate 300 0xFF) % 65536 := by decide +kernel

/-- For CKFEED, SUM8, HISUM and CKPAIR: a range in range up to IBUF's end, one past it, and one with a gap. -/
theorem witness_range_commands :
    ((0xFFFF : Half).toNat + (1 : Half).toNat ≤ 65536 ∧ [0x09].length = (1 : Half).toNat ∧
      IbufHolds (withByte 65535 0x09) (0xFFFF : Half).toNat [0x09]) ∧
    65536 < (0xFFFF : Half).toNat + (2 : Half).toNat ∧
    ((0x300 : Half).toNat + (1 : Half).toNat ≤ 65536 ∧ IbufGap State.reset (0x300 : Half).toNat (1 : Half).toNat) :=
  ⟨⟨by decide, rfl, holds_of_check (by decide)⟩, by decide, by decide, 0, by decide, rfl⟩

/-- CKFEED's split, with V-CK-18's bytes; and CKTRAIL's second clause has the same range. -/
theorem witness_CkfeedAddsItsRange : (0 : Half).toNat + (14 : Half).toNat ≤ 65536 ∧
    bright14.length = (14 : Half).toNat ∧ IbufHolds (withIbuf bright14) (0 : Half).toNat bright14 ∧
    (7 : Half).toNat = (0 : Half).toNat + (7 : Half).toNat ∧ (14 : Half).toNat = (7 : Half).toNat + (7 : Half).toNat :=
  ⟨by decide, rfl, holds_of_check (by decide), by decide, by decide⟩

theorem witness_FixedPacketsAreEmitted : Room 1 State.reset ∧
    ∃ s : State, s.outq.length + 1 = Config.outqCapacity ∧ Room 1 s :=
  ⟨room_at_reset (by decide), queued (Config.outqCapacity - 1), by
    have := Config.outqCapacity_bounds
    rw [length_queued]
    omega, by
    have := Config.outqCapacity_bounds
    unfold Room
    rw [length_queued]
    omega⟩

theorem witness_BrightnessPacketIsLiteral : (15 : Byte).toNat ≤ 15 ∧ Room 1 State.reset ∧ 16 ≤ (16 : Byte).toNat :=
  ⟨by decide, room_at_reset (by decide), by decide⟩

theorem witness_BrightnessChecksumCoincidence : (15 : Byte).toNat ≤ 15 := by decide

theorem witness_WindowsAreTheZeroPaddedBlob : [(0x5A : Byte)] ≠ [] := by decide

/-- V-CH-5: the last of 255 chunks. -/
theorem witness_ChunkEmitsItsWindow :
    Room 1 { State.reset with ibuf := [(49784, 0x01)] } ∧ (0 : Half).toNat + (49785 : Half).toNat ≤ 65536 ∧
    1 ≤ (49785 : Half).toNat ∧ chunksOf (49785 : Half).toNat ≤ 255 ∧ (254 : Half).toNat < chunksOf (49785 : Half).toNat ∧
    [(0x01 : Byte)].length = min 196 ((49785 : Half).toNat - 196 * (254 : Half).toNat) ∧
    IbufHolds { State.reset with ibuf := [(49784, 0x01)] } ((0 : Half).toNat + 196 * (254 : Half).toNat) [0x01] :=
  ⟨room_at_reset (by decide), by decide, by decide, by decide, by decide, by decide, holds_of_check (by decide)⟩

/-- V-CH-6 to V-CH-11 and V-CH-16, at the ends of each range; UPLOAD_SEQ's clauses are among them. -/
theorem witness_ChunkErrorsInOrder :
    65536 < (0xFF00 : Half).toNat + (0x0200 : Half).toNat ∧
    ((0xFFFF : Half).toNat + (0 : Half).toNat ≤ 65536 ∧ (0 : Half).toNat = 0) ∧
    ((0 : Half).toNat + (49981 : Half).toNat ≤ 65536 ∧ 49980 < (49981 : Half).toNat) ∧
    (1 ≤ (49980 : Half).toNat ∧ (49980 : Half).toNat ≤ 49980 ∧ chunksOf (49980 : Half).toNat ≤ (255 : Half).toNat) ∧
    ((254 : Half).toNat < chunksOf (49980 : Half).toNat ∧ IbufGap State.reset ((0 : Half).toNat + 196 * (254 : Half).toNat)
      (min 196 ((49980 : Half).toNat - 196 * (254 : Half).toNat))) ∧
    IbufGap State.reset (0 : Half).toNat (49980 : Half).toNat :=
  ⟨by decide, by decide, by decide, by decide, ⟨by decide, 0, by decide, rfl⟩, 0, by decide, rfl⟩

theorem witness_ChunkPacketLengthAndSelfCheck : 0 < chunkCount [(0x5A : Byte)].length := by decide

/-- V-CH-12. -/
theorem witness_UploadSeqEmitsTheWholeList :
    (0 : Half).toNat + (1 : Half).toNat ≤ 65536 ∧ 1 ≤ (1 : Half).toNat ∧ chunksOf (1 : Half).toNat ≤ 255 ∧
    [(0x5A : Byte)].length = (1 : Half).toNat ∧ IbufHolds (withByte 0 0x5A) (0 : Half).toNat [0x5A] ∧
    Room (chunksOf (1 : Half).toNat + 4) (withByte 0 0x5A) :=
  ⟨by decide, by decide, by decide, by decide, holds_of_check (by decide), room_at_reset (by decide)⟩

theorem witness_UploadChunksAreTheChunkCommands : ∃ s t : State, s.pending = true ∧
    exec (.uploadSeq 0 1) s = .next t ∧ t.pending = false ∧ t.err = 0x00 :=
  ⟨{ withByte 0 0x5A with pending := true }, _, rfl, rfl, rfl, rfl⟩

/-- Another byte of IBUF than the window's differs. -/
theorem witness_ChunkDependsOnlyOnItsWindow :
    (∀ k, k < min 196 ((1 : Half).toNat - 196 * (0 : Half).toNat) →
      Memory.read [(0, 0x5A), (5, 0x11)] ((0 : Half).toNat + 196 * (0 : Half).toNat + k) =
        Memory.read (withByte 0 0x5A).ibuf ((0 : Half).toNat + 196 * (0 : Half).toNat + k)) ∧
    ∃ t, exec (.chunk 0 1 0) (withByte 0 0x5A) = .next t :=
  ⟨by decide, _, rfl⟩

theorem witness_VarlenWritesTheShortestForm : (127 : Word24).toNat < 128 ∧
    (128 ≤ (128 : Word24).toNat ∧ (16383 : Word24).toNat < 16384) ∧
    (16384 ≤ (16384 : Word24).toNat ∧ (2097151 : Word24).toNat < 2097152) ∧ 2097152 ≤ (2097152 : Word24).toNat := by decide

theorem witness_VarLenIsAContinuationCode : 2097151 < 2 ^ 21 := by decide

theorem witness_FillrectEmitsItsPacket : ((65535 : Half).toNat ≤ (65535 : Half).toNat ∧
    (0 : Half).toNat ≤ (0 : Half).toNat ∧ Room 1 State.reset) ∧ ((4 : Half).toNat < (5 : Half).toNat ∨
    (0 : Half).toNat < (0 : Half).toNat) :=
  ⟨⟨by decide, by decide, room_at_reset (by decide)⟩, by decide⟩

theorem witness_PackPlacesEachPixel : 0 < 1 ∧ 15 < 8 * ((9 + 7) / 8) := by decide

/-- A column of `h` clear pixels. -/
def column (h : Nat) : State := withIbuf (List.replicate h 0x00)

/-- The payload of such a column at the origin. -/
def columnPayload (h : Nat) : List Byte :=
  bitmapBytes 0 0 0 0 0 (0 + 1 - 1) (0 + h - 1)
    (pack (fun row col => (List.replicate h (0x00 : Byte))[row * 1 + col]? == some 0x01) 1 h)

/-- One pixel in the far corner (V-DR-8), and its other hypotheses. -/
theorem witness_BitmapEmitsItsPacket :
    1 ≤ (1 : Half).toNat ∧ (65535 : Half).toNat + (1 : Half).toNat - 1 ≤ 65535 ∧
    (0 : Half).toNat + (1 : Half).toNat * (1 : Half).toNat ≤ 65536 ∧
    [(0x01 : Byte)].length = (1 : Half).toNat * (1 : Half).toNat ∧ IbufHolds (withByte 0 0x01) (0 : Half).toNat [0x01] ∧
    (∀ v, v ∈ [(0x01 : Byte)] → v = 0x00 ∨ v = 0x01) ∧ Room 1 (withByte 0 0x01) :=
  ⟨by decide, by decide, by decide, by decide, holds_of_check (by decide), by decide, room_at_reset (by decide)⟩

/-- The largest payload that is sent and the smallest that is not (V-DR-13 and V-DR-14, with one column). -/
theorem witness_BitmapPayload_boundary :
    (1 ≤ (235 : Half).toNat ∧ (0 : Half).toNat + (235 : Half).toNat - 1 ≤ 65535 ∧
      (0 : Half).toNat + (1 : Half).toNat * (235 : Half).toNat ≤ 65536 ∧
      (List.replicate 235 (0x00 : Byte)).length = (1 : Half).toNat * (235 : Half).toNat ∧
      IbufHolds (column 235) (0 : Half).toNat (List.replicate 235 0x00) ∧
      (∀ v, v ∈ List.replicate 235 (0x00 : Byte) → v = 0x00 ∨ v = 0x01)) ∧
    (columnPayload 234).length ≤ 249 ∧ 249 < (columnPayload 235).length :=
  ⟨⟨by decide, by decide, by decide, List.length_replicate .., holds_of_check (by decide +kernel),
    fun v hv => .inl (List.eq_of_mem_replicate hv)⟩, by decide +kernel, by decide +kernel⟩

/-- V-DR-9, V-DR-10, V-DR-15, a range past IBUF's end, and an unwritten matrix. -/
theorem witness_BitmapErrorsInOrder :
    ((0 : Half).toNat = 0 ∨ (1 : Half).toNat = 0) ∧
    (1 ≤ (2 : Half).toNat ∧ 1 ≤ (1 : Half).toNat ∧ (65535 < (65535 : Half).toNat + (2 : Half).toNat - 1 ∨
      65535 < (0 : Half).toNat + (1 : Half).toNat - 1)) ∧
    65536 < (0 : Half).toNat + (256 : Half).toNat * (257 : Half).toNat ∧
    ((0 : Half).toNat + (2 : Half).toNat * (1 : Half).toNat ≤ 65536 ∧
      [(0x00 : Byte), 0x02].length = (2 : Half).toNat * (1 : Half).toNat ∧
      IbufHolds (withIbuf [0x00, 0x02]) (0 : Half).toNat [0x00, 0x02] ∧
      ∃ v, v ∈ [(0x00 : Byte), 0x02] ∧ v ≠ 0x00 ∧ v ≠ 0x01) ∧
    IbufGap State.reset (0 : Half).toNat ((2 : Half).toNat * (1 : Half).toNat) :=
  ⟨by decide, by decide, by decide, ⟨by decide, by decide, holds_of_check (by decide), 0x02, by decide, by decide, by decide⟩,
    0, by decide, rfl⟩

/-- The points of V-DR-17, with its box 5..7 by 5..6. -/
def points17 : List (Nat × Nat) := [(5, 5), (7, 6), (5, 6)]

/-- Their bytes, from address 0. -/
def pointBytes17 : List Byte := [5, 0, 5, 0, 7, 0, 6, 0, 5, 0, 6, 0]

theorem points17_hold (k : Nat) (p : Nat × Nat) (h : points17[k]? = some p) :
    IbufHolds (withIbuf pointBytes17) ((0 : Half).toNat + 4 * k) (le16 p.1 ++ le16 p.2) := by
  rcases k with _ | _ | _ | k
  · cases h
    exact holds_of_check (by decide)
  · cases h
    exact holds_of_check (by decide)
  · cases h
    exact holds_of_check (by decide)
  · cases h

theorem witness_PixelsEmitsItsBoundingBox :
    (0 : Half).toNat + 4 * (3 : Half).toNat ≤ 65536 ∧ (3 : Half).toNat = points17.length ∧
    (∀ p, p ∈ points17 → p.1 < 65536 ∧ p.2 < 65536) ∧
    (∀ k p, points17[k]? = some p →
      IbufHolds (withIbuf pointBytes17) ((0 : Half).toNat + 4 * k) (le16 p.1 ++ le16 p.2)) ∧
    (∀ p, p ∈ points17 → 5 ≤ p.1 ∧ p.1 ≤ 7 ∧ 5 ≤ p.2 ∧ p.2 ≤ 6) ∧
    (∃ p, p ∈ points17 ∧ p.1 = 5) ∧ (∃ p, p ∈ points17 ∧ p.1 = 7) ∧
    (∃ p, p ∈ points17 ∧ p.2 = 5) ∧ (∃ p, p ∈ points17 ∧ p.2 = 6) ∧
    (bitmapBytes 1 2 3 5 5 7 6 (pack (fun row col => decide ((5 + col, 5 + row) ∈ points17)) 3 2)).length ≤ 249 ∧
    Room 1 (withIbuf pointBytes17) :=
  ⟨by decide, by decide, by decide, points17_hold, by decide, by decide, by decide, by decide, by decide, by decide,
    room_at_reset (by decide)⟩

/-- A box of 235 rows is one byte too large: points (0, 0) and (0, 234). -/
theorem witness_PixelsPayload_boundary :
    249 < (bitmapBytes 0 0 0 0 0 0 234 (pack (fun row col =>
      decide ((0 + col, 0 + row) ∈ [((0 : Nat), (0 : Nat)), (0, 234)])) (0 - 0 + 1) (234 - 0 + 1))).length := by decide +kernel

/-- V-DR-20, V-DR-21 and an unwritten point. -/
theorem witness_PixelsErrorsInOrder : 65536 < (0xFFFD : Half).toNat + 4 * (1 : Half).toNat ∧ (0 : Half).toNat = 0 ∧
    ((0xFFFC : Half).toNat + 4 * (1 : Half).toNat ≤ 65536 ∧
      IbufGap State.reset (0xFFFC : Half).toNat (4 * (1 : Half).toNat)) :=
  ⟨by decide, rfl, by decide, 3, by decide, rfl⟩

/-- V-DR-17 and V-DR-18's kind: one set of points, twice in IBUF, the second time in another order with a repeat. -/
theorem witness_PixelsOrderAndRepeatsDoNotMatter : ∃ s : State,
    (0 : Half).toNat + 4 * (2 : Half).toNat ≤ 65536 ∧ (8 : Half).toNat + 4 * (3 : Half).toNat ≤ 65536 ∧
    [(5 : Byte), 0, 6, 0, 7, 0, 6, 0].length = 4 * (2 : Half).toNat ∧
    [(7 : Byte), 0, 6, 0, 5, 0, 6, 0, 7, 0, 6, 0].length = 4 * (3 : Half).toNat ∧
    IbufHolds s (0 : Half).toNat [5, 0, 6, 0, 7, 0, 6, 0] ∧ IbufHolds s (8 : Half).toNat [7, 0, 6, 0, 5, 0, 6, 0, 7, 0, 6, 0] ∧
    ∀ p, p ∈ points [5, 0, 6, 0, 7, 0, 6, 0] ↔ p ∈ points [7, 0, 6, 0, 5, 0, 6, 0, 7, 0, 6, 0] :=
  ⟨withIbuf [5, 0, 6, 0, 7, 0, 6, 0, 7, 0, 6, 0, 5, 0, 6, 0, 7, 0, 6, 0], by decide, by decide, by decide, by decide,
    holds_of_check (by decide), holds_of_check (by decide), fun p => by
      have h1 : points [5, 0, 6, 0, 7, 0, 6, 0] = [(5, 6), (7, 6)] := by decide
      have h2 : points [7, 0, 6, 0, 5, 0, 6, 0, 7, 0, 6, 0] = [(7, 6), (5, 6), (7, 6)] := by decide
      rw [h1, h2]
      simp only [List.mem_cons, List.not_mem_nil, or_false]
      tauto⟩

theorem witness_EmittedFramesHaveTheirLengths : ∃ t, exec (.pktBright 0) State.reset = .next t ∧
    brightPkt 0 ∈ t.outq.drop State.reset.outq.length := ⟨_, rfl, List.mem_singleton.2 rfl⟩

/-- A success, an error and a hold, for the statements about every command that answers a next state. -/
theorem witness_every_command :
    (∃ t, exec .ckclr (started [0x01]) = .next t) ∧
    (∃ t, exec (.pktBright 16) (started [0x13, 0x10]) = .next t ∧ t.pending = false ∧ t.err ≠ 0x00) ∧
    (∃ (n : Nat) (t : State), exec .pktReset (queued n) = .next t ∧ t = queued n) :=
  ⟨⟨_, rfl⟩, ⟨_, rfl, rfl, by decide⟩, Config.outqCapacity, _, test_hold _ rfl, rfl⟩

/-- OnlyItsOwnErrors: a pending command that ends with an error. -/
theorem witness_OnlyItsOwnErrors : (started [0x13, 0x10]).pending = true ∧
    ∃ t, exec (.pktBright 16) (started [0x13, 0x10]) = .next t ∧ t.pending = false ∧ t.err ≠ 0x00 :=
  ⟨rfl, _, rfl, rfl, by decide⟩

theorem no_room_example : ∃ (s t : State), s.pending = true ∧ exec (.pktBright 0) { s with outq := [] } = .next t ∧
    t.pending = false ∧ t.outq ≠ [] ∧ Config.outqCapacity < s.outq.length + t.outq.length := by
  obtain ⟨n, hn⟩ : ∃ n, n = Config.outqCapacity := ⟨_, rfl⟩
  refine ⟨{ queued n with pending := true }, _, rfl, rfl, rfl, List.cons_ne_nil _ _, ?_⟩
  have := length_queued n
  rw [← hn]
  show n < (queued n).outq.length + 1
  omega

/-- EmissionIsAllOrHold: a command that emits nothing, one that fits, and one that does not. -/
theorem witness_EmissionIsAllOrHold :
    (∃ t, exec .ckclr { started [0x01] with outq := [] } = .next t ∧ t.pending = false ∧ t.outq = []) ∧
    (∃ t, exec (.pktBright 0) { started [0x13, 0x00] with outq := [] } = .next t ∧ t.pending = false ∧ t.outq ≠ [] ∧
      (started [0x13, 0x00]).outq.length + t.outq.length ≤ Config.outqCapacity) ∧
    (∃ (s t : State), s.pending = true ∧ exec (.pktBright 0) { s with outq := [] } = .next t ∧ t.pending = false ∧
      t.outq ≠ [] ∧ Config.outqCapacity < s.outq.length + t.outq.length) :=
  ⟨⟨_, rfl, rfl, rfl⟩,
    ⟨_, rfl, rfl, List.cons_ne_nil _ _, Nat.le_trans (by decide : 0 + 1 ≤ 259) Config.outqCapacity_bounds.1⟩,
    no_room_example⟩

/-- Two states that differ in STICKY, ERR, RESULT, CMDBUF and the queued frame. -/
theorem witness_CommandsDependOnlyOnTheirInputs : ∃ s s' t : State,
    (∀ a, Memory.read s'.ibuf a = Memory.read s.ibuf a) ∧ s'.acc = s.acc ∧ s'.outq.length = s.outq.length ∧ s' ≠ s ∧
    exec (.pktBright 3) s = .next t :=
  ⟨queued 1, { State.reset with sticky := true, err := 0x05, result := ⟨1, 0, 0, 1⟩, cmdbuf := [(0, 0x13)], outq := [[1]] },
    _, fun _ => rfl, rfl, rfl, by decide, rfl⟩

theorem witness_RegistersReadTheirFields : (queued 65535).outq.length ≤ 65535 ∧ State.reset.outq = [] ∧
    ({ State.reset with outq := [brightPkt 0] } : State).outq = brightPkt 0 :: [] ∧ (brightPkt 0).length ≤ 65535 ∧
    hostAct (.read (.reg .w32 0x00)) State.reset = .next { State.reset with hostSeen := [.word 0] } :=
  ⟨Nat.le_of_eq (length_queued 65535), rfl, rfl, by decide, rfl⟩

theorem witness_ReservedReadsZeroAndIgnoresWrites :
    [(0x14 : Byte), 0x1C, 0x30, 0xFC].all (fun o => decide (o.toNat % 4 = 0 ∧ ((0x14 ≤ o.toNat ∧ o.toNat ≤ 0x1C) ∨ 0x30 ≤ o.toNat))) ∧
    [(0x20 : Byte), 0x2F].all (fun o => decide (0x20 ≤ o.toNat ∧ o.toNat ≤ 0x2F)) ∧
    [(0x00 : Byte), 0x10, 0x1C, 0x30].all
      (fun o => decide (o.toNat % 4 = 0 ∧ (o.toNat ≤ 0x10 ∨ o.toNat = 0x1C ∨ 0x30 ≤ o.toNat))) := by decide

theorem witness_BadAccessFaults :
    ((0x1F : Byte).toNat < 0x20 ∧ (Width.w32 ≠ .w32 ∨ (0x1F : Byte).toNat % 4 ≠ 0)) ∧
    ((0x00 : Byte).toNat < 0x20 ∧ (Width.w8 ≠ .w32 ∨ (0x00 : Byte).toNat % 4 ≠ 0)) ∧
    (0x20 ≤ (0x20 : Byte).toNat ∧ (0x2F : Byte).toNat ≤ 0x2F ∧ Width.w32 ≠ .w8) ∧
    (0x30 ≤ (0x30 : Byte).toNat ∧ (Width.w8 ≠ .w32 ∨ (0x30 : Byte).toNat % 4 ≠ 0)) ∧
    (0x30 ≤ (0xFF : Byte).toNat ∧ (Width.w32 ≠ .w32 ∨ (0xFF : Byte).toNat % 4 ≠ 0)) := by decide

/-- For CMD_GO and IBUF: not pending, and pending; for IBUF an unwritten byte; and a CMDBUF place. -/
theorem witness_host_writes : State.reset.pending = false ∧ (started [0x10]).pending = true ∧
    Memory.read State.reset.ibuf (0xFFFF : Half).toNat = none ∧ 15 < 16 := by decide

/-- For the OUT window and OUT_POP: the last byte of a frame, the first place beyond it, and the empty queue. -/
theorem witness_out_window : ({ State.reset with outq := [brightPkt 0] } : State).outq = brightPkt 0 :: [] ∧
    (brightPkt 0)[(15 : Half).toNat]? = some 0x03 ∧ (brightPkt 0).length ≤ (16 : Half).toNat ∧ State.reset.outq = [] := by
  decide

theorem witness_ModelFaultStopsTheRun :
    ((started [0x13]).fault = none ∧ move (started [0x13]) = .fault .unwrittenRead) ∧
    ({ State.reset with fault := some .hostHazard } : State).fault = some .hostHazard ∧
    step State.reset = .next State.reset := ⟨⟨rfl, rfl⟩, rfl, rfl⟩

theorem witness_IdleBlockStaysAsItIs : State.reset.fault = none ∧ State.reset.pending = false ∧
    State.reset.hostPlan = [] ∧ (started [0x10]).pending = true := by decide

/-- A latched command that holds: PKT_BRIGHT 0 with every slot taken, with the host polling. -/
theorem witness_hold : ∃ (s : State) (m : Memory) (t : State), s.fault = none ∧ s.pending = true ∧ s.latch = some m ∧
    decode [0x13, 0x00] = .ok (.pktBright 0, []) ∧
    (∀ k, k < [0x13, 0x00].length → Memory.read m k = ([0x13, 0x00] : List Byte)[k]?) ∧ BlockTurn s s ∧
    exec (.pktBright 0) s = .next s ∧
    exec (.pktBright 0) { s with outq := [] } = .next t ∧ t.pending = false ∧ t.outq ≠ [] ∧
    Config.outqCapacity < s.outq.length + t.outq.length := by
  obtain ⟨n, hn⟩ : ∃ n, n = Config.outqCapacity := ⟨_, rfl⟩
  have full : Config.outqCapacity < ({ started [0x13, 0x00] with outq := (queued n).outq } : State).outq.length + 1 := by
    have := length_queued n
    show Config.outqCapacity < (queued n).outq.length + 1
    omega
  exact ⟨{ started [0x13, 0x00] with outq := (queued n).outq, hostPlan := [.poll] }, [(0, 0x13), (1, 0x00)], _, rfl, rfl, rfl,
    by decide, by decide, .inr (.inl ⟨[], rfl, rfl⟩), emit_of_no_room (frames := [brightPkt 0]) full, rfl, rfl,
    List.cons_ne_nil _ _, full⟩

/-- A state with a command pending, a byte in IBUF, a frame queued and a result. -/
def busy : State :=
  { started [0x13, 0x01] with
    ibuf := [(7, 0x5A)]
    outq := [brightPkt 0]
    result := ⟨0x09, 0x00, 0x00, 1⟩
    cmdbuf := [(0, 0x13)] }

theorem witness_EveryStepKeepsTheInvariant : ∃ s t : State, s.Inv ∧ s.pending = true ∧ s.outq ≠ [] ∧ s.ibuf ≠ [] ∧
    step s = .next t := by
  refine ⟨busy, _, ?_, rfl, List.cons_ne_nil _ _, List.cons_ne_nil _ _, rfl⟩
  constructor
  · decide
  · decide
  · intro m h
    cases h
    decide
  · decide
  · decide
  · decide
  · decide
  · decide
  · decide
  · exact Nat.le_trans (by decide : 1 ≤ 259) Config.outqCapacity_bounds.1
  · intro f h
    cases List.mem_singleton.1 h
    exact ⟨rfl, by decide, by decide⟩

theorem witness_CanonicalMemoryIsDeterminedByItsBytes : Memory.wf 16 [(0, 0x13), (15, 0x05)] = true ∧ 15 < 16 := by
  decide

end Sys2Proof.Tests
end

section
/-! What each opcode's execution can end in, by its own tables of errors, writes and packets. -/

namespace Sys2Proof
open Sys2Proof.Machine

/-! ### The tables -/

/-- A result's bytes at or beyond RESLEN are 0x00 (R25). -/
def Machine.Result.Tidy (r : Result) : Prop :=
  (r.resLen.val ≤ 0 → r.res0 = 0x00) ∧ (r.resLen.val ≤ 1 → r.res1 = 0x00) ∧ (r.resLen.val ≤ 2 → r.res2 = 0x00)

/-- The errors a command of this opcode can raise (R171). -/
def Opcode.errors : Opcode → List CmdError
  | .ckclr | .cktrail | .pktReset | .pktReady | .pktUc => []
  | .ckfeed | .sum8 | .hisum | .ckpair | .pktBright | .fillrect | .bitmap | .varlen => [.invalidParameter]
  | .chunk | .uploadSeq => [.invalidParameter, .emptyPayload, .tooManyChunks]
  | .pixels => [.invalidParameter, .emptyPointSet]

/-- The values of ACC and RESULT that a command of this opcode can leave where it completes without emitting (R92). -/
def Opcode.Writes (op : Opcode) (s : State) (acc : Half) (r : Result) : Prop :=
  match op with
  | .ckclr | .ckfeed => r = s.result
  | .cktrail | .sum8 | .hisum | .ckpair | .varlen => acc = s.acc ∧ r.Tidy
  | _ => False

/-- The packet lengths of an opcode (R71). -/
def Opcode.PacketLength (op : Opcode) (n : Nat) : Prop :=
  match op with
  | .pktReset | .pktReady | .pktBright => n = 16
  | .pktUc => n = 17
  | .chunk => n = 233 + Config.pliW
  | .uploadSeq => n = 16 ∨ n = 17 ∨ n = 233 + Config.pliW
  | .fillrect => n = 26
  | .bitmap | .pixels => 26 ≤ n ∧ n ≤ 261
  | _ => False

/-- A frame that begins with MAGIC and has one of the lengths of `op` (R70, R71). -/
def Opcode.IsPacket (op : Opcode) (f : Frame) : Prop :=
  f.take 4 = [0xAA, 0x55, 0xFF, 0xFF] ∧ op.PacketLength f.length

/-- Every way an execution of a command with opcode `op` can end: `Ends`, with the error, the values written and the
frames restricted to those of the opcode. -/
inductive EndsAs (op : Opcode) (s : State) : Outcome → Prop where
  /-- an error of the opcode (R171, R174) -/
  | failed (e : CmdError) (h : e ∈ op.errors) : EndsAs op s (.next (s.failed e))
  /-- the command holds for queue space (R46) -/
  | held : EndsAs op s (.next s)
  /-- a model fault (R43) -/
  | faulted : EndsAs op s (.fault .unwrittenRead)
  /-- completion with ACC or RESULT written (R175) -/
  | wrote (acc : Half) (r : Result) (h : op.Writes s acc r) :
    EndsAs op s (.next ({ s with acc := acc, result := r } : State).completed)
  /-- completion with frames emitted (R46, R175) -/
  | emitted (frames : List Frame) (h : ∀ f, f ∈ frames → op.IsPacket f)
    (room : s.outq.length + frames.length ≤ Config.outqCapacity) :
    EndsAs op s (.next ({ s with outq := s.outq ++ frames } : State).completed)

/-! ### The packets -/

theorem take_magic_append (bs : List Byte) : (Config.magic ++ bs).take 4 = [0xAA, 0x55, 0xFF, 0xFF] := rfl

theorem isPacket_resetPkt {op : Opcode} (h : op.PacketLength 16) : op.IsPacket resetPkt :=
  ⟨take_magic_append _, by simpa [resetPkt, Config.magic, Config.length_resetTail] using h⟩

theorem isPacket_readyPkt {op : Opcode} (h : op.PacketLength 16) : op.IsPacket readyPkt :=
  ⟨take_magic_append _, by simpa [readyPkt, Config.magic, Config.length_readyTail] using h⟩

theorem isPacket_ucPkt {op : Opcode} (h : op.PacketLength 17) : op.IsPacket ucPkt :=
  ⟨take_magic_append _, by simpa [ucPkt, Config.magic, Config.length_ucTail] using h⟩

theorem length_padWindow {bs : List Byte} (h : bs.length ≤ 196) : (padWindow bs).length = 196 := by
  simp only [padWindow, Config.chunkW, List.length_append, List.length_replicate]
  omega

theorem length_window (blob : List Byte) (i : Nat) : (window blob i).length = 196 :=
  length_padWindow (List.length_take_le 196 _)

/-- A chunk packet of a whole window has 233 + PLI_W bytes (R128). -/
theorem isPacket_chunkPkt {op : Opcode} {w : List Byte} (i n : Nat) (hw : w.length = 196)
    (h : op.PacketLength (233 + Config.pliW)) : op.IsPacket (chunkPkt w i n) := by
  constructor
  · simp only [chunkPkt, withTrailer, chunkHeader, List.append_assoc, take_magic_append]
  · have hl : (chunkPkt w i n).length = 233 + Config.pliW := by
      simp only [chunkPkt, withTrailer, chunkHeader, trailer, trailerWith, le24, Config.magic,
        Config.length_chunkConstTail, Config.length_chunkPli, List.length_append, List.length_cons, List.length_nil, hw]
      omega
    rwa [hl]

/-- A draw packet has 12 bytes beside its payload (R142). -/
theorem isPacket_drawPkt {op : Opcode} (seq : Half) {payload : List Byte} (h : op.PacketLength (payload.length + 12)) :
    op.IsPacket (drawPkt seq payload) := by
  constructor
  · simp only [drawPkt, withTrailer, drawBody, List.append_assoc, take_magic_append]
  · have hl : (drawPkt seq payload).length = payload.length + 12 := by
      simp only [drawPkt, withTrailer, drawBody, trailer, trailerWith, bytesLE16, Config.magic, List.length_append,
        List.length_cons, List.length_nil]
      omega
    rwa [hl]

theorem length_varLen (v : Nat) : (varLen v).length = varLenSize v := by
  unfold varLen varLenSize
  split_ifs <;> rfl

/-- Packed bits: `h` rows of `bytesPerRow w` bytes (R148). -/
theorem length_pack (pix : Pix) (w h : Nat) : (pack pix w h).length = packedLen w h := by
  simp [pack, packedLen, packRow, List.length_flatMap]

/-- The length that BITMAP and PIXELS check is that of the payload they build (R149). -/
theorem length_bitmapPayload (r g b : Byte) (x0 y0 w h : Nat) (pix : Pix) :
    (bitmapPayload r g b x0 y0 w h pix).length = bitmapPayloadLen w h := by
  simp only [bitmapPayload, bitmapPayloadLen, length_varLen, length_pack, le16, List.length_append, List.length_cons,
    List.length_nil]

theorem bitmapPayloadLen_ge (w h : Nat) : 14 ≤ bitmapPayloadLen w h := by
  unfold bitmapPayloadLen varLenSize
  split_ifs <;> omega

/-! ### The shared operations -/

section
variable {op : Opcode} {s : State}

theorem endsAs_emit {frames : List Frame} (h : ∀ f, f ∈ frames → op.IsPacket f) : EndsAs op s (emit frames s) := by
  by_cases room : s.outq.length + frames.length ≤ Config.outqCapacity
  · rw [emit_of_room room]
    exact .emitted frames h room
  · rw [emit_of_no_room (by omega)]
    exact .held

theorem endsAs_emit_one {f : Frame} (h : op.IsPacket f) : EndsAs op s (emit [f] s) :=
  endsAs_emit fun _ hg => List.mem_singleton.1 hg ▸ h

theorem endsAs_withRange {a n : Nat} {use : Outcome} (he : .invalidParameter ∈ op.errors) (h : EndsAs op s use) :
    EndsAs op s (withRange a n s use) := by
  unfold withRange
  split
  · exact h
  · exact .failed _ he

theorem endsAs_withBytes {a n : Nat} {use : List Byte → Outcome}
    (h : ∀ bs, bs.length = n → EndsAs op s (use bs)) : EndsAs op s (withBytes a n s use) := by
  obtain e | ⟨bs, hl, -, e⟩ := withBytes_cases a n s use <;> rw [e]
  · exact .faulted
  · exact h bs hl

theorem endsAs_withTransfer {len : Nat} {use : Outcome} (hp : .emptyPayload ∈ op.errors)
    (hc : .tooManyChunks ∈ op.errors) (h : EndsAs op s use) : EndsAs op s (withTransfer len s use) := by
  unfold withTransfer
  split
  · exact .failed _ hp
  · split
    · exact .failed _ hc
    · exact h

theorem endsAs_emitBitmap (seq : Half) (r g b : Byte) (x0 y0 w h : Nat) (pix : Pix)
    (he : .invalidParameter ∈ op.errors) (hl : ∀ n, 26 ≤ n → n ≤ 261 → op.PacketLength n) :
    EndsAs op s (emitBitmap seq r g b x0 y0 w h pix s) := by
  unfold emitBitmap
  split
  · exact .failed _ he
  · rename_i short
    have := bitmapPayloadLen_ge w h
    simp only [Config.drawPayloadMax] at short
    refine endsAs_emit_one (isPacket_drawPkt seq ?_)
    rw [length_bitmapPayload]
    exact hl _ (by omega) (by omega)

end

theorem tidy_one (b0 : Byte) : Result.Tidy ⟨b0, 0x00, 0x00, 1⟩ := ⟨by simp, by simp, by simp⟩

theorem tidy_two (b0 b1 : Byte) : Result.Tidy ⟨b0, b1, 0x00, 2⟩ := ⟨by simp, by simp, by simp⟩

theorem tidy_three (b0 b1 b2 : Byte) : Result.Tidy ⟨b0, b1, b2, 3⟩ := ⟨by simp, by simp, by simp⟩

/-- VARLEN's result has one, two or three bytes and zeros beyond them (R141). -/
theorem withVarLen_tidy (s : State) (v : Nat) : ∃ r : Result, r.Tidy ∧ s.withVarLen v = { s with result := r } := by
  unfold State.withVarLen varLen
  split_ifs
  · exact ⟨_, tidy_one _, rfl⟩
  · exact ⟨_, tidy_two _ _, rfl⟩
  · exact ⟨_, tidy_three _ _ _, rfl⟩

/-! ### Every command -/

theorem isPacket_uploadFrames {blob : List Byte} {f : Frame} (h : f ∈ uploadFrames blob) :
    Opcode.uploadSeq.IsPacket f := by
  simp only [uploadFrames, List.mem_append, List.mem_cons, List.mem_map, List.not_mem_nil, or_false] at h
  obtain ((rfl | rfl) | ⟨i, -, rfl⟩) | rfl | rfl := h
  · exact isPacket_resetPkt (.inl rfl)
  · exact isPacket_readyPkt (.inl rfl)
  · exact isPacket_chunkPkt i _ (length_window blob i) (.inr (.inr rfl))
  · exact isPacket_ucPkt (.inr (.inl rfl))
  · exact isPacket_ucPkt (.inr (.inl rfl))

/-- Every command ends in one of the ways of its opcode. -/
theorem exec_endsAs (i : Instr) (s : State) : EndsAs i.opcode s (exec i s) := by
  cases i with
  | ckclr => exact .wrote 0x0000 s.result rfl
  | ckfeed addr len =>
    exact endsAs_withRange (.head _) (endsAs_withBytes fun bs _ => .wrote _ s.result rfl)
  | cktrail => exact .wrote s.acc _ ⟨rfl, tidy_two _ _⟩
  | sum8 addr len =>
    exact endsAs_withRange (.head _) (endsAs_withBytes fun bs _ => .wrote s.acc _ ⟨rfl, tidy_one _⟩)
  | hisum addr len =>
    exact endsAs_withRange (.head _) (endsAs_withBytes fun bs _ => .wrote s.acc _ ⟨rfl, tidy_one _⟩)
  | ckpair addr len =>
    exact endsAs_withRange (.head _) (endsAs_withBytes fun bs _ => .wrote s.acc _ ⟨rfl, tidy_two _ _⟩)
  | pktReset => exact endsAs_emit_one (isPacket_resetPkt rfl)
  | pktReady => exact endsAs_emit_one (isPacket_readyPkt rfl)
  | pktUc => exact endsAs_emit_one (isPacket_ucPkt rfl)
  | pktBright level =>
    show EndsAs .pktBright s (execPktBright level s)
    unfold execPktBright
    split
    · exact .failed _ (by decide)
    · exact endsAs_emit_one ⟨rfl, rfl⟩
  | chunk addr len index =>
    show EndsAs .chunk s (execChunk addr len index s)
    refine endsAs_withRange (by decide) (endsAs_withTransfer (by decide) (by decide) ?_)
    split
    · exact .failed _ (by decide)
    · refine endsAs_withBytes fun bs hl => endsAs_emit_one (isPacket_chunkPkt _ _ (length_padWindow ?_) rfl)
      exact hl ▸ Nat.min_le_left 196 _
  | uploadSeq addr len =>
    show EndsAs .uploadSeq s (execUploadSeq addr len s)
    exact endsAs_withRange (by decide) (endsAs_withTransfer (by decide) (by decide)
      (endsAs_withBytes fun bs _ => endsAs_emit fun f => isPacket_uploadFrames))
  | fillrect seq r g b x0 y0 x1 y1 =>
    show EndsAs .fillrect s (execFillrect seq r g b x0 y0 x1 y1 s)
    unfold execFillrect
    split
    · exact .failed _ (by decide)
    · exact endsAs_emit_one (isPacket_drawPkt seq rfl)
  | bitmap seq r g b x0 y0 w h addr =>
    show EndsAs .bitmap s (execBitmap seq r g b x0 y0 w h addr s)
    unfold execBitmap
    split
    · exact .failed _ (by decide)
    · split
      · exact .failed _ (by decide)
      · refine endsAs_withRange (by decide) (endsAs_withBytes fun m _ => ?_)
        split
        · exact endsAs_emitBitmap _ _ _ _ _ _ _ _ _ (by decide) fun _ lo hi => ⟨lo, hi⟩
        · exact .failed _ (by decide)
  | pixels seq r g b addr count =>
    show EndsAs .pixels s (execPixels seq r g b addr count s)
    refine endsAs_withRange (by decide) ?_
    split
    · exact .failed _ (by decide)
    · exact endsAs_withBytes fun bs _ =>
        endsAs_emitBitmap _ _ _ _ _ _ _ _ _ (by decide) fun _ lo hi => ⟨lo, hi⟩
  | varlen v =>
    show EndsAs .varlen s (execVarlen v s)
    unfold execVarlen
    split
    · exact .failed _ (by decide)
    · obtain ⟨r, tidy, e⟩ := withVarLen_tidy s v.toNat
      rw [e]
      exact .wrote s.acc r ⟨rfl, tidy⟩

end Sys2Proof
end

section
/-! The invariant of the state and every step of the block and the host. -/

namespace Sys2Proof.Machine

/-! ### What is well formed in a packet and at reset -/

/-- Every packet length of R71 is one that R70 and R28 allow. -/
theorem packetLength_bounds {op : Opcode} {n : Nat} (h : op.PacketLength n) : 16 ≤ n ∧ n ≤ 65535 := by
  have := Config.pliW_bounds
  cases op <;> simp only [Opcode.PacketLength] at h <;> omega

theorem frameOk_of_isPacket {op : Opcode} {f : Frame} (h : op.IsPacket f) : FrameOk f :=
  ⟨h.1, packetLength_bounds h.2⟩

/-- Settles O58: no byte is written, no command has run and no frame is queued at reset. -/
theorem resetMeetsTheInvariant : Obligations.ResetMeetsTheInvariant where
  ibuf_wf := rfl
  cmdbuf_wf := rfl
  latch_wf _ h := nomatch h
  latched h := nomatch h
  err_known := by decide
  sticky_err _ := rfl
  res0_unused _ := rfl
  res1_unused _ := rfl
  res2_unused _ := rfl
  outq_room := Nat.zero_le _
  outq_frames _ h := nomatch h

/-- The codes of R170 end at 5. -/
theorem CmdError.code_toNat_le (e : CmdError) : e.code.toNat ≤ 5 := by cases e <;> decide

/-! ### The named updates keep the invariant -/

namespace State.Inv
variable {s : State} (inv : s.Inv)
include inv

/-- No clause of the invariant speaks of the host agent or of FAULT. -/
theorem of_host (f : Option Fault) (plan : List HostEvent) (seen : List HostSeen) :
    ({ s with fault := f, hostPlan := plan, hostSeen := seen } : State).Inv := { inv with }

theorem noted (x : HostSeen) : (s.noted x).Inv := inv.of_host _ _ _

theorem failed (e : CmdError) : (s.failed e).Inv :=
  { inv with
    latched := fun h => nomatch h
    err_known := e.code_toNat_le
    sticky_err := fun h => nomatch h }

theorem completed : s.completed.Inv :=
  { inv with
    latched := fun h => nomatch h
    err_known := Nat.zero_le 5
    sticky_err := fun _ => rfl }

theorem written (acc : Half) {r : Result} (tidy : r.Tidy) : ({ s with acc := acc, result := r } : State).Inv :=
  { inv with
    res0_unused := tidy.1
    res1_unused := tidy.2.1
    res2_unused := tidy.2.2 }

theorem enqueued {frames : List Frame} (room : s.outq.length + frames.length ≤ Config.outqCapacity)
    (ok : ∀ f, f ∈ frames → FrameOk f) : ({ s with outq := s.outq ++ frames } : State).Inv :=
  { inv with
    outq_room := by simpa using room
    outq_frames := fun f h => (List.mem_append.1 h).elim (inv.outq_frames f) (ok f) }

theorem popped : s.popped.Inv :=
  { inv with
    outq_room := Nat.le_trans (by simp) inv.outq_room
    outq_frames := fun f h => inv.outq_frames f (List.mem_of_mem_tail h) }

theorem started : ({ s with latch := some s.cmdbuf, pending := true } : State).Inv :=
  { inv with
    latch_wf := fun _ h => Option.some.inj h ▸ inv.cmdbuf_wf
    latched := fun _ => rfl }

theorem cmdbufWritten {k : Nat} (b : Byte) (h : k < Config.cmdbufSize) :
    ({ s with cmdbuf := Memory.write s.cmdbuf k b } : State).Inv :=
  { inv with cmdbuf_wf := Memory.wf_write b h inv.cmdbuf_wf }

theorem ibufWritten {a : Nat} (b : Byte) (h : a < Config.ibufSize) :
    ({ s with ibuf := Memory.write s.ibuf a b } : State).Inv :=
  { inv with ibuf_wf := Memory.wf_write b h inv.ibuf_wf }

theorem result_tidy : s.result.Tidy := ⟨inv.res0_unused, inv.res1_unused, inv.res2_unused⟩

end State.Inv

theorem State.inv_blockReset (s : State) : s.blockReset.Inv := resetMeetsTheInvariant.of_host _ _ _

/-! ### The moves keep the invariant -/

/-- CMDBUF's offsets (R22). -/
theorem isCmdbufOffset_iff {offset : Byte} :
    isCmdbufOffset offset = true ↔ 0x20 ≤ offset.toNat ∧ offset.toNat < 0x30 := by
  simp [isCmdbufOffset]

/-- Where an outcome is a next state, the invariant holds in it. -/
def KeepsInv (o : Outcome) : Prop := ∀ t, o = .next t → t.Inv

theorem keepsInv_next {t : State} (h : t.Inv) : KeepsInv (.next t) := fun _ e => Host.Outcome.next.inj e ▸ h

theorem keepsInv_fault (f : Fault) : KeepsInv (.fault f) := fun _ e => nomatch e

/-- A check that ends in a model fault when it fails. -/
theorem keepsInv_guarded {c : Prop} [Decidable c] {o : Outcome} {f : Fault} (h : KeepsInv o) :
    KeepsInv (if c then o else .fault f) := by
  split
  · exact h
  · exact keepsInv_fault f

section
variable {s : State} (inv : s.Inv)
include inv

/-- What a command writes to RESULT, if anything, is tidy (R25). -/
theorem tidy_of_writes {op : Opcode} {acc : Half} {r : Result} (h : op.Writes s acc r) : r.Tidy := by
  cases op with
  | ckclr | ckfeed => exact (show r = s.result from h) ▸ inv.result_tidy
  | cktrail | sum8 | hisum | ckpair | varlen => exact h.2
  | _ => exact h.elim

theorem keepsInv_of_endsAs {op : Opcode} {o : Outcome} (h : EndsAs op s o) : KeepsInv o := by
  cases h with
  | failed e _ => exact keepsInv_next (inv.failed e)
  | held => exact keepsInv_next inv
  | faulted => exact keepsInv_fault _
  | wrote acc r h => exact keepsInv_next (inv.written acc (tidy_of_writes inv h)).completed
  | emitted frames h room =>
    exact keepsInv_next (inv.enqueued room fun f hf => frameOk_of_isPacket (h f hf)).completed

theorem exec_keepsInv (i : Instr) : KeepsInv (exec i s) := keepsInv_of_endsAs inv (exec_endsAs i s)

theorem blockStep_keepsInv : KeepsInv (blockStep s) := by
  unfold blockStep
  split
  · obtain e | e | ⟨i, -, e⟩ := runPending_cases s <;> rw [e]
    · exact keepsInv_fault _
    · exact keepsInv_next (inv.failed _)
    · exact exec_keepsInv inv i
  · exact keepsInv_next inv

theorem regWrite_keepsInv (offset : Byte) (value : Word) : KeepsInv (regWrite offset value s) := by
  unfold regWrite cmdGo
  split
  · rename_i h
    rw [isCmdbufOffset_iff] at h
    exact keepsInv_next (inv.cmdbufWritten _ (by simp only [Config.cmdbufSize]; omega))
  · split
    · exact keepsInv_next inv.popped
    · split
      · split
        · exact keepsInv_fault _
        · exact keepsInv_next inv.started
      · exact keepsInv_next inv

theorem ibufWrite_keepsInv (addr : Half) (value : Word) : KeepsInv (ibufWrite addr value s) := by
  unfold ibufWrite
  split
  · exact keepsInv_fault _
  · exact keepsInv_next (inv.ibufWritten _ addr.isLt)

theorem hostWrite_keepsInv (w : HostWrite) : KeepsInv (hostWrite w s) := by
  cases w with
  | reg width offset value => exact keepsInv_guarded (regWrite_keepsInv inv offset value)
  | ibuf width addr value => exact keepsInv_guarded (ibufWrite_keepsInv inv addr value)
  | out width index value => exact keepsInv_guarded (keepsInv_next inv)

theorem hostAct_keepsInv (a : HostAction) : KeepsInv (hostAct a s) := by
  cases a with
  | read r =>
    unfold hostAct
    dsimp only
    split
    · exact keepsInv_next (inv.noted _)
    · exact keepsInv_fault _
  | write w => exact hostWrite_keepsInv inv w
  | blockReset => exact keepsInv_next s.inv_blockReset

theorem move_keepsInv : KeepsInv (move s) := by
  have planned (plan : List HostEvent) : ({ s with hostPlan := plan } : State).Inv := inv.of_host _ _ _
  unfold move
  split
  · exact blockStep_keepsInv inv
  · exact blockStep_keepsInv (planned _)
  · exact hostAct_keepsInv (planned _) _
  · exact keepsInv_next ((planned _).noted _).popped
  · exact keepsInv_next ((planned _).noted _)
  · split
    · exact blockStep_keepsInv inv
    · exact keepsInv_next ((planned _).noted _)

theorem recordFault_keepsInv {o : Outcome} (h : KeepsInv o) : KeepsInv (recordFault s o) := by
  cases o with
  | next t => exact h
  | fault f => exact keepsInv_next (inv.of_host _ _ _)
  | refused r => exact h

end

/-- Settles O59: a step is a move of the block or the host, and each of them keeps the invariant. -/
theorem everyStepKeepsTheInvariant : Obligations.EveryStepKeepsTheInvariant := by
  intro s t inv e
  obtain ⟨f, -, hs⟩ | ⟨-, hs⟩ := step_cases s
  · rw [hs] at e
    cases e
  · exact recordFault_keepsInv inv (move_keepsInv inv) t (hs ▸ e)

end Sys2Proof.Machine
end

section
/-! What a command leaves unchanged. -/

namespace Sys2Proof.Machine

section
variable {op : Opcode} {s t : State}

/-- The opcodes that write ACC (R24). -/
theorem acc_of_writes {acc : Half} {r : Result} (h : op.Writes s acc r) (h1 : op ≠ .ckclr) (h2 : op ≠ .ckfeed) :
    acc = s.acc := by
  cases op with
  | ckclr | ckfeed => contradiction
  | cktrail | sum8 | hisum | ckpair | varlen => exact h.1
  | _ => exact h.elim

/-- The opcodes that write RESULT (R25). -/
theorem result_of_writes {acc : Half} {r : Result} (h : op.Writes s acc r) (h1 : op ≠ .cktrail) (h2 : op ≠ .sum8)
    (h3 : op ≠ .hisum) (h4 : op ≠ .ckpair) (h5 : op ≠ .varlen) : r = s.result := by
  cases op with
  | ckclr | ckfeed => exact h
  | cktrail | sum8 | hisum | ckpair | varlen => contradiction
  | _ => exact h.elim

/-- An opcode that writes ACC or RESULT has no packet (R92). -/
theorem not_isPacket {f : Frame} (h : op = .ckclr ∨ op = .ckfeed ∨ op = .cktrail ∨ op = .sum8 ∨ op = .hisum ∨
    op = .ckpair ∨ op = .varlen) : ¬ op.IsPacket f := by
  obtain rfl | rfl | rfl | rfl | rfl | rfl | rfl := h <;> exact fun hp => hp.2

theorem endsAs_acc (h : EndsAs op s (.next t)) (h1 : op ≠ .ckclr) (h2 : op ≠ .ckfeed) : t.acc = s.acc := by
  cases h with
  | wrote acc r h => exact acc_of_writes h h1 h2
  | _ => rfl

theorem endsAs_result (h : EndsAs op s (.next t)) (h1 : op ≠ .cktrail) (h2 : op ≠ .sum8) (h3 : op ≠ .hisum)
    (h4 : op ≠ .ckpair) (h5 : op ≠ .varlen) : t.result = s.result := by
  cases h with
  | wrote acc r h => exact result_of_writes h h1 h2 h3 h4 h5
  | _ => rfl

/-- The frames an execution queues, all of them packets of the opcode. -/
theorem endsAs_outq (h : EndsAs op s (.next t)) :
    ∃ frames, t.outq = s.outq ++ frames ∧ ∀ f, f ∈ frames → op.IsPacket f := by
  cases h with
  | emitted frames h room => exact ⟨frames, rfl, h⟩
  | _ => exact ⟨[], by simp, by simp⟩

theorem endsAs_sticky (h : EndsAs op s (.next t)) (hs : s.sticky = true) : t.sticky = true := by
  cases h with
  | failed e h => rfl
  | _ => exact hs

/-- No command writes the memories, FAULT or the host (R59; logs 4 and 5). -/
theorem endsAs_frame (h : EndsAs op s (.next t)) :
    t.ibuf = s.ibuf ∧ t.cmdbuf = s.cmdbuf ∧ t.latch = s.latch ∧ t.fault = s.fault ∧ t.hostPlan = s.hostPlan ∧
      t.hostSeen = s.hostSeen := by
  cases h <;> exact ⟨rfl, rfl, rfl, rfl, rfl, rfl⟩

end

/-- Settles O43: each clause holds of every way the command's opcode can end. -/
theorem commandFrame : Obligations.CommandFrame := by
  intro i s t e
  have ends : EndsAs i.opcode s (.next t) := e ▸ exec_endsAs i s
  obtain ⟨ibuf, cmdbuf, latch, fault, plan, seen⟩ := endsAs_frame ends
  obtain ⟨frames, outq, packets⟩ := endsAs_outq ends
  refine ⟨endsAs_acc ends, endsAs_result ends, fun a => by rw [ibuf], fun a => by rw [cmdbuf], ibuf, cmdbuf, latch,
    fault, plan, seen, endsAs_sticky ends, by simp [outq], fun silent => ?_⟩
  have none_queued : frames = [] := List.eq_nil_iff_forall_not_mem.2 fun f hf => not_isPacket silent (packets f hf)
  rw [outq, none_queued, List.append_nil]

end Sys2Proof.Machine
end

section
/-! The host's registers: what the read-only ones read as, what the writable ones do, and which accesses are allowed. -/

namespace Sys2Proof.Machine

/-! ### Register words as numbers -/

/-- Bits put side by side, as a number. -/
theorem toNat_append_eq_add {m n : Nat} (x : BitVec m) (y : BitVec n) :
    (x ++ y).toNat = x.toNat * 2 ^ n + y.toNat := by
  rw [BitVec.toNat_append, ← Nat.shiftLeft_add_eq_or_of_lt y.isLt, Nat.shiftLeft_eq]

section
variable (s : State)

theorem toNat_statusWord :
    s.statusWord.toNat = s.pending.toNat + 2 * s.sticky.toNat + 256 * s.err.toNat := by
  simp only [State.statusWord, toNat_append_eq_add, BitVec.toNat_ofBool, BitVec.ofNat_eq_ofNat, BitVec.toNat_ofNat]
  omega

theorem toNat_accWord : s.accWord.toNat = s.acc.toNat := by
  simp only [State.accWord, toNat_append_eq_add, BitVec.ofNat_eq_ofNat, BitVec.toNat_ofNat]
  omega

theorem toNat_resultWord :
    s.resultWord.toNat = s.result.res0.toNat + 256 * s.result.res1.toNat + 65536 * s.result.res2.toNat +
      16777216 * s.result.resLen.val := by
  have := s.result.resLen.isLt
  simp only [State.resultWord, toNat_append_eq_add, BitVec.ofNat_eq_ofNat, BitVec.toNat_ofNat]
  omega

/-- A length in bits 15:0 of a register reads as itself while it fits them (R27, R28). -/
theorem toNat_lengthWord {n : Nat} (h : n ≤ 65535) : ((0 : BitVec 16) ++ BitVec.ofNat 16 n).toNat = n := by
  simp only [toNat_append_eq_add, BitVec.ofNat_eq_ofNat, BitVec.toNat_ofNat]
  omega

/-- A host read leaves the block as it was (R50). -/
theorem hostAct_read {r : HostRead} {t : State} (h : hostAct (.read r) s = .next t) :
    ∃ v, hostRead r s = .ok v ∧ t = s.noted (.word v) := by
  unfold hostAct at h
  dsimp only at h
  split at h
  · exact ⟨_, ‹_›, (Host.Outcome.next.inj h).symm⟩
  · cases h

end

/-- Settles O46: the five offsets select the five words, whose values as numbers are said once above. -/
theorem registersReadTheirFields : Obligations.RegistersReadTheirFields := fun s =>
  ⟨s.statusWord, s.accWord, s.resultWord, s.outqCountWord, s.outHeadLenWord, rfl, rfl, rfl, rfl, rfl,
    toNat_statusWord s, toNat_accWord s, toNat_resultWord s, toNat_lengthWord,
    fun empty => by simp [State.outHeadLenWord, State.headLen, empty],
    fun f q head fits => by
      have len : s.headLen = f.length := by simp [State.headLen, head]
      rw [State.outHeadLenWord, len, toNat_lengthWord fits],
    fun _ _ => hostAct_read s⟩

/-! ### Allowed accesses (R33) -/

/-- In CMDBUF's offsets the 8-bit accesses are the allowed ones. -/
theorem regAccessOk_cmdbuf {width : Width} {offset : Byte} (h : isCmdbufOffset offset = true) :
    regAccessOk width offset = true ↔ width = .w8 := by
  simp [regAccessOk, h]

/-- At every other offset the aligned 32-bit accesses are the allowed ones. -/
theorem regAccessOk_word {width : Width} {offset : Byte} (h : ¬ isCmdbufOffset offset = true) :
    regAccessOk width offset = true ↔ width = .w32 ∧ offset.toNat % 4 = 0 := by
  simp [regAccessOk, h]

section
variable {s : State} {width : Width} {offset : Byte} {value : Word}

theorem hostRead_reg_of_ok (h : regAccessOk width offset = true) :
    hostRead (.reg width offset) s = .ok (s.regWord offset) := if_pos h

theorem hostWrite_reg_of_ok (h : regAccessOk width offset = true) :
    hostWrite (.reg width offset value) s = regWrite offset value s := if_pos h

/-- A register access that R33 does not allow is BAD_HOST_ACCESS, read or write. -/
theorem reg_badAccess (h : ¬ regAccessOk width offset = true) :
    hostRead (.reg width offset) s = .error .badHostAccess ∧
      hostWrite (.reg width offset value) s = .fault .badHostAccess := ⟨if_neg h, if_neg h⟩

/-- Every offset above 0x10 reads 0 (R29 to R32). -/
theorem regWord_zero (h : 0x10 < offset.toNat) : s.regWord offset = 0 := by
  unfold State.regWord
  split
  case h_6 => rfl
  all_goals omega

end

/-- Settles O48: outside the widths of `regAccessOk`, and in IBUF and OUT at any width but 8 bits, every access is the
fault. -/
theorem badAccessFaults : Obligations.BadAccessFaults := by
  intro s width offset addr value
  have word_fault (h : offset.toNat < 0x20 ∨ 0x30 ≤ offset.toNat) (bad : width ≠ .w32 ∨ offset.toNat % 4 ≠ 0) :
      ¬ regAccessOk width offset = true := by
    rw [regAccessOk_word (by rw [isCmdbufOffset_iff]; omega)]
    tauto
  refine ⟨fun lo bad => reg_badAccess (word_fault (.inl lo) bad), fun lo hi bad => reg_badAccess ?_,
    fun hi bad => reg_badAccess (word_fault (.inr hi) bad), fun bad => ?_⟩
  · rwa [regAccessOk_cmdbuf (isCmdbufOffset_iff.2 ⟨lo, by omega⟩)]
  · have narrow : ¬ (width == Width.w8) = true := by simpa using bad
    exact ⟨if_neg narrow, if_neg narrow, if_neg narrow, if_neg narrow⟩

/-! ### Writes -/

section
variable {s : State} {offset : Byte} {value : Word}

/-- A CMDBUF place takes the value's low byte (R31). -/
theorem regWrite_cmdbuf (h : isCmdbufOffset offset = true) :
    regWrite offset value s =
      .next { s with cmdbuf := Memory.write s.cmdbuf (offset.toNat - 0x20) (lowByte value) } := if_pos h

/-- Every other offset but those of OUT_POP and CMD_GO ignores the write (R32). -/
theorem regWrite_ignored (h : ¬ isCmdbufOffset offset = true) (hp : offset.toNat ≠ 0x14) (hg : offset.toNat ≠ 0x18) :
    regWrite offset value s = .next s := by
  rw [regWrite, if_neg h, if_neg hp, if_neg hg]

end

/-- A byte write's byte as a number (log 15). -/
theorem toNat_lowByte (value : Word) : (lowByte value).toNat = value.toNat % 256 := by
  simp [lowByte]

/-- OUT_POP's write pops (R29). -/
theorem hostAct_outPop (s : State) (value : Word) :
    hostAct (.write (.reg .w32 0x14 value)) s = .next s.popped := rfl

/-- CMD_GO's write starts the command (R30). -/
theorem hostAct_cmdGo (s : State) (value : Word) : hostAct (.write (.reg .w32 0x18 value)) s = cmdGo s := rfl

/-- Settles O47: above 0x10 nothing is readable, and only CMDBUF, OUT_POP and CMD_GO are writable. -/
theorem reservedReadsZeroAndIgnoresWrites : Obligations.ReservedReadsZeroAndIgnoresWrites := by
  intro s offset value
  refine ⟨fun aligned range => ?_, fun lo hi => ?_, fun aligned range => ?_⟩
  · have word : ¬ isCmdbufOffset offset = true := by rw [isCmdbufOffset_iff]; omega
    rw [hostRead_reg_of_ok ((regAccessOk_word word).2 ⟨rfl, aligned⟩), regWord_zero (by omega)]
  · have byte : isCmdbufOffset offset = true := isCmdbufOffset_iff.2 ⟨lo, by omega⟩
    rw [hostRead_reg_of_ok ((regAccessOk_cmdbuf byte).2 rfl), regWord_zero (by omega)]
  · have word : ¬ isCmdbufOffset offset = true := by rw [isCmdbufOffset_iff]; omega
    rw [hostWrite_reg_of_ok ((regAccessOk_word word).2 ⟨rfl, aligned⟩),
      regWrite_ignored word (by omega) (by omega)]

/-- Settles O50: the write is one `Memory.write` at place `k`, whatever PENDING is. -/
theorem cmdbufWriteLeavesTheLatch : Obligations.CmdbufWriteLeavesTheLatch := by
  intro s k value hk
  have place : (BitVec.ofNat 8 (0x20 + k)).toNat = 0x20 + k := by
    rw [BitVec.toNat_ofNat]
    omega
  have byte : isCmdbufOffset (BitVec.ofNat 8 (0x20 + k)) = true := isCmdbufOffset_iff.2 (by omega)
  refine ⟨Memory.write s.cmdbuf k (lowByte value), ?_, ⟨lowByte value, toNat_lowByte value, Memory.read_write_same ..⟩,
    fun j hj => Memory.read_write_other _ _ _ _ hj⟩
  rw [hostAct, hostWrite_reg_of_ok ((regAccessOk_cmdbuf byte).2 rfl), regWrite_cmdbuf byte, place,
    Nat.add_sub_cancel_left]

/-- Settles O49: the two cases of `cmdGo`. -/
theorem cmdGoLatchesTheDescriptor : Obligations.CmdGoLatchesTheDescriptor := by
  intro s value
  rw [hostAct_cmdGo]
  exact ⟨fun idle => if_neg (by simp [idle]), fun busy => if_pos busy, rfl⟩

/-- Settles O53: the tail of the queue, whatever is pending. -/
theorem outPopRemovesTheHead : Obligations.OutPopRemovesTheHead := by
  intro s value
  rw [hostAct_outPop]
  refine ⟨fun f q queue => ?_, fun empty => ?_, rfl⟩
  · rw [State.popped, queue, List.tail_cons]
  · have same : s.outq.tail = s.outq := by rw [empty, List.tail_nil]
    rw [State.popped, same]

/-- Settles O55: the fields of `State.reset`, and its two lengths as the host reads them. -/
theorem resetStateIsAsStated : Obligations.ResetStateIsAsStated :=
  ⟨rfl, rfl, rfl, rfl, rfl, rfl, rfl, Memory.read_nil, Memory.read_nil, rfl, rfl, rfl⟩

end Sys2Proof.Machine
end

section
/-! Memories by their bytes: in canonical form a memory is determined by what its addresses read as. -/

namespace Sys2Proof.Machine

theorem Memory.risesFrom_cons {low size k : Nat} {b : Byte} {m : Memory} :
    Memory.risesFrom low size ((k, b) :: m) = true ↔
      low ≤ k ∧ k < size ∧ Memory.risesFrom (k + 1) size m = true := by
  simp only [Memory.risesFrom, Bool.and_eq_true, decide_eq_true_eq, and_assoc]

/-- Below its least address a rising memory is unwritten, so its first cell is what the head address reads as. -/
theorem Memory.read_below_head {low size k a : Nat} {b : Byte} {m : Memory}
    (hm : Memory.risesFrom low size ((k, b) :: m) = true) (h : a < k) : Memory.read ((k, b) :: m) a = none := by
  obtain ⟨-, below, rest⟩ := Memory.risesFrom_cons.1 hm
  exact Memory.read_below (Memory.risesFrom_cons.2 ⟨le_rfl, below, rest⟩) h

/-- Two rising memories that read alike have the same least address, and the same byte there. -/
theorem Memory.head_eq_of_read_eq {low low' size k k' : Nat} {b b' : Byte} {m m' : Memory}
    (hm : Memory.risesFrom low size ((k, b) :: m) = true) (hm' : Memory.risesFrom low' size ((k', b') :: m') = true)
    (h : ∀ a, Memory.read ((k, b) :: m) a = Memory.read ((k', b') :: m') a) : k = k' ∧ b = b' := by
  have at_k : Memory.read ((k, b) :: m) k = some b := if_pos rfl
  have at_k' : Memory.read ((k', b') :: m') k' = some b' := if_pos rfl
  obtain lt | rfl | gt := Nat.lt_trichotomy k k'
  · rw [h, Memory.read_below_head hm' lt] at at_k
    cases at_k
  · rw [h, at_k'] at at_k
    exact ⟨rfl, (Option.some.inj at_k).symm⟩
  · rw [← h, Memory.read_below_head hm gt] at at_k'
    cases at_k'

/-- Rising memories with the same reads are the same list of cells. -/
theorem Memory.eq_of_read_eq {low size : Nat} {m m' : Memory} (hm : Memory.risesFrom low size m = true)
    (hm' : Memory.risesFrom low size m' = true) (h : ∀ a, Memory.read m a = Memory.read m' a) : m = m' := by
  induction m generalizing low m' with
  | nil =>
    cases m' with
    | nil => rfl
    | cons c' m' => simpa [Memory.read] using h c'.1
  | cons c m ih =>
    cases m' with
    | nil => simpa [Memory.read] using h c.1
    | cons c' m' =>
      obtain ⟨k, b⟩ := c
      obtain ⟨k', b'⟩ := c'
      obtain ⟨rfl, rfl⟩ := Memory.head_eq_of_read_eq hm hm' h
      obtain ⟨-, -, rest⟩ := Memory.risesFrom_cons.1 hm
      obtain ⟨-, -, rest'⟩ := Memory.risesFrom_cons.1 hm'
      have tails (a : Nat) : Memory.read m a = Memory.read m' a := by
        by_cases low_a : a < k + 1
        · rw [Memory.read_below rest low_a, Memory.read_below rest' low_a]
        · have := h a
          rwa [Memory.read_cons, Memory.read_cons, if_neg (by omega), if_neg (by omega)] at this
      rw [ih rest rest' tails]

/-- Settles O60: a write keeps the addresses rising, and rising memories with the same reads have the same cells. -/
theorem canonicalMemoryIsDeterminedByItsBytes : Obligations.CanonicalMemoryIsDeterminedByItsBytes :=
  ⟨fun _ _ _ b => Memory.wf_write b, fun _ _ _ => Memory.eq_of_read_eq⟩

end Sys2Proof.Machine
end

section
/-! The host's accesses to IBUF and to the OUT window (R41 to R44, R194). -/

namespace Sys2Proof.Machine

/-- A byte read is zero-extended (log 15). -/
theorem toNat_byteWord (b : Byte) : (byteWord b).toNat = b.toNat := by
  simp only [byteWord, BitVec.toNat_setWidth]
  omega

/-- A byte written as a word is the byte stored (log 15). -/
theorem lowByte_byteWord (b : Byte) : lowByte (byteWord b) = b :=
  BitVec.eq_of_toNat_eq (by rw [toNat_lowByte, toNat_byteWord]; omega)

section
variable {s : State}

theorem hostAct_read_of_ok {r : HostRead} {v : Word} (h : hostRead r s = .ok v) :
    hostAct (.read r) s = .next (s.noted (.word v)) := by
  simp only [hostAct, h]

theorem hostAct_read_of_error {r : HostRead} {f : Fault} (h : hostRead r s = .error f) :
    hostAct (.read r) s = .fault f := by
  simp only [hostAct, h]

/-- A written byte of IBUF is read (R41). -/
theorem hostRead_ibuf_of_written {addr : Half} {b : Byte} (h : Memory.read s.ibuf addr.toNat = some b) :
    hostRead (.ibuf .w8 addr) s = .ok (byteWord b) := by
  simp [hostRead, h]

/-- An unwritten byte of IBUF is UNWRITTEN_READ (R43). -/
theorem hostRead_ibuf_of_unwritten {addr : Half} (h : Memory.read s.ibuf addr.toNat = none) :
    hostRead (.ibuf .w8 addr) s = .error .unwrittenRead := by
  simp [hostRead, h]

/-- A byte of the head frame is read (R44). -/
theorem hostRead_out_of_some {i : Half} {b : Byte} (h : (s.outq.headD [])[i.toNat]? = some b) :
    hostRead (.out .w8 i) s = .ok (byteWord b) := by
  simp only [hostRead, beq_self_eq_true, if_true, h]

/-- A place beyond the head frame is OUT_RANGE_READ (R44); an empty queue has no place at all. -/
theorem hostRead_out_of_beyond {i : Half} (h : (s.outq.headD []).length ≤ i.toNat) :
    hostRead (.out .w8 i) s = .error .outRangeRead := by
  simp only [hostRead, beq_self_eq_true, if_true, List.getElem?_eq_none h]

end

/-- Settles O51: the write is one `Memory.write` at the address, refused while a command is pending. -/
theorem ibufWriteThenRead : Obligations.IbufWriteThenRead := by
  intro s addr value
  refine ⟨fun idle => ⟨Memory.write s.ibuf addr.toNat (lowByte value), byteWord (lowByte value), ?_, ?_, ?_, ?_⟩,
    fun busy => ?_, fun gap => hostAct_read_of_error (hostRead_ibuf_of_unwritten gap)⟩
  · exact if_neg (by simp [idle])
  · rw [toNat_byteWord, toNat_lowByte]
  · exact hostRead_ibuf_of_written (Memory.read_write_same ..)
  · exact fun a other => Memory.read_write_other _ _ _ _ other
  · exact if_pos busy

/-- Settles O52: the head frame's byte if it has one at the place, else the fault. -/
theorem outWindowReadsTheHeadFrame : Obligations.OutWindowReadsTheHeadFrame := by
  intro s i
  refine ⟨fun f q b queue byte => ⟨byteWord b, toNat_byteWord b, ?_⟩, fun f q queue beyond => ?_, fun empty => ?_⟩
  · exact hostAct_read_of_ok (hostRead_out_of_some (by rw [queue]; exact byte))
  · exact hostAct_read_of_error (hostRead_out_of_beyond (by rw [queue]; exact beyond))
  · exact hostAct_read_of_error (hostRead_out_of_beyond (by rw [empty]; exact Nat.zero_le _))

end Sys2Proof.Machine
end

section
/-! What a command does as a function of its inputs: IBUF's bytes and ACC decide its effect, and the queue only whether it
holds (R46, R202). -/

namespace Sys2Proof.Machine

/-- What a command is to do, before the queue is looked at. -/
inductive Effect where
  /-- an error (R174) -/
  | failed (e : CmdError)
  /-- a model fault (R43) -/
  | faulted
  /-- completion with ACC written (R24) -/
  | setsAcc (acc : Half)
  /-- completion with RESULT written (R25) -/
  | setsResult (r : Result)
  /-- emission of at least one frame (R46) -/
  | emits (first : Frame) (others : List Frame)

/-- The effect on a state. -/
def Effect.run (s : State) : Effect → Outcome
  | .failed e => raise e s
  | .faulted => .fault .unwrittenRead
  | .setsAcc acc => complete { s with acc := acc }
  | .setsResult r => complete { s with result := r }
  | .emits first others => emit (first :: others) s

/-- The inputs of a command (R202). -/
structure SameInputs (s s' : State) : Prop where
  /-- the bytes of IBUF and their written marks -/
  ibuf : ∀ a, Memory.read s'.ibuf a = Memory.read s.ibuf a
  /-- ACC -/
  acc : s'.acc = s.acc

/-- From every state with the inputs of `s`, what `use` does is one effect. -/
def HasEffect (s : State) (use : State → Outcome) : Prop :=
  ∃ effect : Effect, ∀ s', SameInputs s s' → use s' = effect.run s'

/-! ### The shared operations -/

section
variable {s : State}

theorem hasEffect_raise (e : CmdError) : HasEffect s (raise e) := ⟨.failed e, fun _ _ => rfl⟩

theorem hasEffect_setsResult (r : Result) : HasEffect s fun s' => complete { s' with result := r } :=
  ⟨.setsResult r, fun _ _ => rfl⟩

theorem hasEffect_emit (first : Frame) (others : List Frame) : HasEffect s (emit (first :: others)) :=
  ⟨.emits first others, fun _ _ => rfl⟩

theorem hasEffect_ite {c : Prop} [Decidable c] {use use' : State → Outcome} (h : HasEffect s use)
    (h' : HasEffect s use') : HasEffect s fun s' => if c then use s' else use' s' := by
  by_cases hc : c
  · simpa only [if_pos hc] using h
  · simpa only [if_neg hc] using h'

theorem hasEffect_withRange {a n : Nat} {use : State → Outcome} (h : HasEffect s use) :
    HasEffect s fun s' => withRange a n s' (use s') := hasEffect_ite h (hasEffect_raise _)

/-- The bytes of a range are the same in every state with the inputs of `s`. -/
theorem hasEffect_withBytes {a n : Nat} {use : List Byte → State → Outcome} (h : ∀ bs, HasEffect s (use bs)) :
    HasEffect s fun s' => withBytes a n s' fun bs => use bs s' := by
  have same {s' : State} (inputs : SameInputs s s') :
      Memory.readRange s'.ibuf a n = Memory.readRange s.ibuf a n :=
    Memory.readRange_congr fun _ _ => inputs.ibuf _
  cases range : Memory.readRange s.ibuf a n with
  | none => exact ⟨.faulted, fun s' inputs => by simp only [withBytes, same inputs, range, Effect.run]⟩
  | some bs =>
    obtain ⟨effect, he⟩ := h bs
    exact ⟨effect, fun s' inputs => by simp only [withBytes, same inputs, range, he s' inputs]⟩

theorem hasEffect_withTransfer {len : Nat} {use : State → Outcome} (h : HasEffect s use) :
    HasEffect s fun s' => withTransfer len s' (use s') :=
  hasEffect_ite (hasEffect_raise _) (hasEffect_ite (hasEffect_raise _) h)

theorem hasEffect_emitBitmap (seq : Half) (r g b : Byte) (x0 y0 w h : Nat) (pix : Pix) :
    HasEffect s (emitBitmap seq r g b x0 y0 w h pix) := hasEffect_ite (hasEffect_raise _) (hasEffect_emit _ _)

end

/-- VARLEN's result is the same from every state (R141). -/
theorem withVarLen_result (v : Nat) : ∃ r : Result, ∀ s : State, s.withVarLen v = { s with result := r } := by
  unfold State.withVarLen varLen
  split_ifs <;> exact ⟨_, fun _ => rfl⟩

/-! ### Every command -/

/-- Every command has one effect, decided by its inputs. -/
theorem exec_hasEffect (i : Instr) (s : State) : HasEffect s (exec i) := by
  cases i with
  | ckclr => exact ⟨.setsAcc 0x0000, fun _ _ => rfl⟩
  | ckfeed addr len =>
    refine hasEffect_withRange (hasEffect_withBytes fun bs => ?_)
    exact ⟨.setsAcc (BitVec.ofNat 16 (s.acc.toNat + byteSum bs)), fun s' inputs => by rw [← inputs.acc]; rfl⟩
  | cktrail =>
    exact ⟨.setsResult ⟨accChecksum1 s.acc, accChecksum2 Config.chk2Span s.acc, 0x00, 2⟩,
      fun s' inputs => by rw [← inputs.acc]; rfl⟩
  | sum8 addr len => exact hasEffect_withRange (hasEffect_withBytes fun bs => hasEffect_setsResult _)
  | hisum addr len => exact hasEffect_withRange (hasEffect_withBytes fun bs => hasEffect_setsResult _)
  | ckpair addr len => exact hasEffect_withRange (hasEffect_withBytes fun bs => hasEffect_setsResult _)
  | pktReset => exact hasEffect_emit _ _
  | pktReady => exact hasEffect_emit _ _
  | pktUc => exact hasEffect_emit _ _
  | pktBright level => exact hasEffect_ite (hasEffect_raise _) (hasEffect_emit _ _)
  | chunk addr len index =>
    exact hasEffect_withRange (hasEffect_withTransfer
      (hasEffect_ite (hasEffect_raise _) (hasEffect_withBytes fun bs => hasEffect_emit _ _)))
  | uploadSeq addr len =>
    exact hasEffect_withRange (hasEffect_withTransfer (hasEffect_withBytes fun blob => hasEffect_emit _ _))
  | fillrect seq r g b x0 y0 x1 y1 => exact hasEffect_ite (hasEffect_raise _) (hasEffect_emit _ _)
  | bitmap seq r g b x0 y0 w h addr =>
    exact hasEffect_ite (hasEffect_raise _) (hasEffect_ite (hasEffect_raise _)
      (hasEffect_withRange (hasEffect_withBytes fun m =>
        hasEffect_ite (hasEffect_emitBitmap ..) (hasEffect_raise _))))
  | pixels seq r g b addr count =>
    exact hasEffect_withRange (hasEffect_ite (hasEffect_raise _)
      (hasEffect_withBytes fun bs => hasEffect_emitBitmap ..))
  | varlen v =>
    obtain ⟨r, e⟩ := withVarLen_result v.toNat
    exact hasEffect_ite (hasEffect_raise _) ⟨.setsResult r, fun s' _ => congrArg complete (e s')⟩

/-- Settles O44: the effect with OUTQ empty is the effect with the queue as it is, and only an emission looks at the
queue's free slots. -/
theorem emissionIsAllOrHold : Obligations.EmissionIsAllOrHold := by
  intro i s t pending empty ended
  obtain ⟨effect, runs⟩ := exec_hasEffect i s
  rw [runs { s with outq := [] } ⟨fun _ => rfl, rfl⟩] at empty
  rw [runs s ⟨fun _ => rfl, rfl⟩]
  cases effect with
  | faulted => cases empty
  | failed _ | setsAcc _ | setsResult _ =>
    cases empty
    exact ⟨fun _ => rfl, fun frames => absurd rfl frames, fun frames => absurd rfl frames⟩
  | emits first others =>
    by_cases fits : ([] : List Frame).length + (first :: others).length ≤ Config.outqCapacity
    · cases (emit_of_room (s := { s with outq := [] }) fits).symm.trans empty
      exact ⟨fun none => absurd none (List.cons_ne_nil _ _), fun _ => emit_of_room, fun _ => emit_of_no_room⟩
    · cases (emit_of_no_room (s := { s with outq := [] }) (Nat.lt_of_not_le fits)).symm.trans empty
      exact absurd ended (by simp [pending])

end Sys2Proof.Machine
end

section
/-! The host's plan: each item is one step (R53, R69; logs 3, 5 and 16), and a command line's items latch its descriptor
and start it (R68). -/

namespace Sys2Proof.Machine

/-! ### What a host action answers -/

section
variable (s : State) (r : Refusal)

theorem regWrite_not_refused (offset : Byte) (value : Word) : regWrite offset value s ≠ .refused r := by
  unfold regWrite cmdGo
  split_ifs <;> exact nofun

theorem ibufWrite_not_refused (addr : Half) (value : Word) : ibufWrite addr value s ≠ .refused r := by
  unfold ibufWrite
  split_ifs <;> exact nofun

theorem hostWrite_not_refused (w : HostWrite) : hostWrite w s ≠ .refused r := by
  unfold hostWrite
  cases w <;> dsimp only <;> split_ifs
  · exact regWrite_not_refused s r _ _
  · exact nofun
  · exact ibufWrite_not_refused s r _ _
  all_goals exact nofun

/-- A host action goes on or meets a model fault. -/
theorem hostAct_not_refused (a : HostAction) : hostAct a s ≠ .refused r := by
  cases a with
  | read q =>
    cases e : hostRead q s with
    | ok v => exact hostAct_read_of_ok e ▸ nofun
    | error f => exact hostAct_read_of_error e ▸ nofun
  | write w => exact hostWrite_not_refused s r w
  | blockReset => exact nofun

end

/-! ### One item, one step -/

section
variable {s : State}

/-- Without a recorded fault a step is the move, with a fault of the move recorded (R178). -/
theorem step_of_no_fault (h : s.fault = none) : step s = recordFault s (move s) := by
  rw [step, guarded, h]

variable {plan : List HostEvent}

theorem step_act {a : HostAction} (h : s.fault = none) (hp : s.hostPlan = .act a :: plan) :
    step s = recordFault s (hostAct a { s with hostPlan := plan }) := by
  rw [step_of_no_fault h, move, hp]

theorem step_pop (h : s.fault = none) (hp : s.hostPlan = .pop :: plan) :
    step s = .next { s with hostPlan := plan, outq := s.outq.tail,
                            hostSeen := s.hostSeen ++ [.frame (s.outq.headD [])] } := by
  rw [step_of_no_fault h, move, hp]
  rfl

theorem step_check {e : Byte} (h : s.fault = none) (hp : s.hostPlan = .check e :: plan) :
    step s = .next { s with hostPlan := plan, hostSeen := s.hostSeen ++ [.checked (s.err == e)] } := by
  rw [step_of_no_fault h, move, hp]
  rfl

/-- The poll ends when it reads PENDING = 0 (R68). -/
theorem step_poll_idle (h : s.fault = none) (hp : s.hostPlan = .poll :: plan) (idle : s.pending = false) :
    step s = .next { s with hostPlan := plan, hostSeen := s.hostSeen ++ [.word s.statusWord] } := by
  rw [step_of_no_fault h, move, hp]
  simp only [idle]
  rfl

/-- The host's write of CMDBUF byte `k` (R31). -/
theorem step_writeCmdbuf {k : Nat} {b : Byte} (hk : k < Config.cmdbufSize) (h : s.fault = none)
    (hp : s.hostPlan = writeCmdbuf k b :: plan) :
    step s = .next { s with cmdbuf := Memory.write s.cmdbuf k b, hostPlan := plan } := by
  have place : (BitVec.ofNat 8 (0x20 + k)).toNat = 0x20 + k := by
    simp only [Config.cmdbufSize] at hk
    rw [BitVec.toNat_ofNat]
    omega
  have byte : isCmdbufOffset (BitVec.ofNat 8 (0x20 + k)) = true :=
    isCmdbufOffset_iff.2 (by simp only [Config.cmdbufSize] at hk; omega)
  rw [step_act h hp, hostAct, hostWrite_reg_of_ok ((regAccessOk_cmdbuf byte).2 rfl), regWrite_cmdbuf byte, place,
    lowByte_byteWord, Nat.add_sub_cancel_left]
  rfl

/-- The host's write of CMD_GO with no command pending (R30). -/
theorem step_writeCmdGo (h : s.fault = none) (idle : s.pending = false) (hp : s.hostPlan = writeCmdGo :: plan) :
    step s = .next { s with latch := some s.cmdbuf, pending := true, hostPlan := plan } := by
  rw [step_act h hp, hostAct_cmdGo, cmdGo, if_neg (by simp [idle])]
  rfl

end

/-! ### Several writes -/

/-- The memory after writing the cells in order. -/
def Memory.writeAll (m : Memory) (cells : List Host.Cell) : Memory :=
  cells.foldl (fun m c => Memory.write m c.1 c.2) m

/-- Bytes written from address 0 on read back there, and every other address is as it was. -/
theorem Memory.read_writeAll_range (m : Memory) (bs : List Byte) (a : Nat) :
    Memory.read (m.writeAll ((List.range bs.length).zip bs)) a = bs[a]?.or (Memory.read m a) := by
  induction bs using List.reverseRecOn with
  | nil => rfl
  | append_singleton bs b ih =>
    have cells : (List.range (bs ++ [b]).length).zip (bs ++ [b]) =
        (List.range bs.length).zip bs ++ [(bs.length, b)] := by
      rw [List.length_append, List.length_singleton, List.range_succ, List.zip_append (by simp)]
      rfl
    rw [cells, Memory.writeAll, List.foldl_append]
    by_cases last : a = bs.length
    · subst last
      simp [Memory.read_write_same]
    · rw [List.foldl_cons, List.foldl_nil, Memory.read_write_other _ _ _ _ last, ← Memory.writeAll, ih]
      obtain lt | gt := Nat.lt_or_gt_of_ne last
      · rw [List.getElem?_append_left lt]
      · rw [List.getElem?_eq_none (by omega), List.getElem?_eq_none (by simp; omega)]

/-! ### A command line -/

/-- A descriptor is as long as its opcode's format (R62). -/
theorem length_encode (i : Instr) : (encode i).length = i.opcode.length := by
  cases i <;> rfl

/-- A descriptor fits CMDBUF (R60). -/
theorem Opcode.length_le_cmdbufSize (op : Opcode) : op.length ≤ Config.cmdbufSize := by
  cases op <;> decide

/-- A step that goes on is the first of a longer run. -/
theorem run_succ_of_step {M : Host.Core} {s t : M.State} (h : M.step s = .next t) (k : Nat) :
    M.run (k + 1) s = M.run k t := by
  rw [Host.Core.run, h]

/-- The writes of some cells of CMDBUF and then of CMD_GO, one step each (R68). -/
theorem run_writes_cmdGo {s : State} {cells : List Host.Cell} {plan : List HostEvent}
    (small : ∀ c, c ∈ cells → c.1 < Config.cmdbufSize) (h : s.fault = none) (idle : s.pending = false)
    (hp : s.hostPlan = cells.map (fun c => writeCmdbuf c.1 c.2) ++ writeCmdGo :: plan) :
    Host.Core.run Sys2Proof.core (cells.length + 1) s =
      .next { s with cmdbuf := Memory.writeAll s.cmdbuf cells, latch := some (Memory.writeAll s.cmdbuf cells),
                     pending := true, hostPlan := plan } := by
  induction cells generalizing s with
  | nil => exact run_succ_of_step (M := Sys2Proof.core) (step_writeCmdGo h idle hp) 0
  | cons c cells ih =>
    have first := step_writeCmdbuf (small c (.head _)) h hp
    exact (run_succ_of_step (M := Sys2Proof.core) first (cells.length + 1)).trans
      (ih (fun d hd => small d (.tail _ hd)) h idle rfl)

/-- Settles O9: one lemma per item of the plan, and a command line's writes taken one by one. -/
theorem commandLineStartsItsCommand : Obligations.CommandLineStartsItsCommand := by
  refine ⟨fun s a plan h hp => ?_, fun s plan h hp => ?_, fun s e plan h hp => ?_, fun s plan h hp idle => ?_,
    fun s i rest h idle hp => ?_⟩
  · rw [step_act h hp]
    exact ⟨fun t e => by rw [e]; rfl, fun f e => by rw [e]; rfl, fun r => hostAct_not_refused _ r a⟩
  · rw [step_pop h hp]
    exact ⟨fun f q queue => by rw [queue]; rfl, fun empty => by simp [empty]⟩
  · rw [step_check h hp]
    exact ⟨fun equal => by rw [beq_iff_eq.2 equal], fun other => by rw [beq_eq_false_iff_ne.2 other]⟩
  · refine ⟨s.statusWord, ?_, step_poll_idle h hp idle⟩
    rw [toNat_statusWord, idle, Bool.toNat_false, Nat.zero_add]
  · have reads := Memory.read_writeAll_range s.cmdbuf (encode i)
    refine ⟨s.cmdbuf.writeAll ((List.range (encode i).length).zip (encode i)), fun k hk => ?_, fun k hk => ?_, ?_⟩
    · rw [reads, List.getElem?_eq_getElem hk, Option.some_or]
    · rw [reads, List.getElem?_eq_none hk, Option.none_or]
    · have small (c : Host.Cell) (hc : c ∈ (List.range (encode i).length).zip (encode i)) :
          c.1 < Config.cmdbufSize := by
        have := List.mem_range.1 (List.of_mem_zip hc).1
        have := Opcode.length_le_cmdbufSize i.opcode
        rw [← length_encode] at this
        omega
      have run := run_writes_cmdGo (plan := .poll :: rest) small h idle (by rw [hp, commandEvents]; simp)
      simpa using run

end Sys2Proof.Machine
end

section
/-! Descriptors as byte strings: decoding reads back what encoding wrote, and nothing else (R60 to R65). -/

namespace Sys2Proof

/-! ### Decoding and encoding -/

/-- A byte string decodes exactly when it is an opcode byte and then that opcode's operands. -/
theorem decode_eq_ok_iff {bs : List Byte} {found : Instr × List Byte} :
    decode bs = .ok found ↔ ∃ op tail, bs = op.code :: tail ∧ readOperands op tail = some found := by
  constructor
  · intro h
    cases bs with
    | nil => cases h
    | cons b tail =>
      simp only [decode] at h
      split at h
      · cases h
      · rename_i op hop
        split at h
        · cases h
        · rename_i operands
          cases h
          exact ⟨op, tail, by rw [Opcode.code_of_ofByte hop], operands⟩
  · rintro ⟨op, tail, rfl, operands⟩
    simp only [decode, Opcode.ofByte_code, operands]

/-- The operand bytes of a command are read back as the command, and the bytes after them are left. -/
theorem readOperands_operandBytes (i : Instr) (rest : List Byte) :
    readOperands i.opcode (i.operandBytes ++ rest) = some (i, rest) := by
  cases i with
  | ckclr | cktrail | pktReset | pktReady | pktUc | pktBright level => rfl
  | varlen v =>
    simp only [Instr.opcode, Instr.operandBytes, readOperands, readFV, bytesLE24, List.cons_append, List.nil_append,
      ofLE24_bytes]
  | _ =>
    simp only [Instr.opcode, Instr.operandBytes, readOperands, readFR, readFC, readFF, readFM, readFP, bytesLE16,
      List.cons_append, List.nil_append, ofLE16_bytes]

/-- A command read from operand bytes has those bytes as its own, before what is left. -/
theorem operandBytes_of_readOperands {op : Opcode} {bs rest : List Byte} {i : Instr}
    (h : readOperands op bs = some (i, rest)) : i.opcode = op ∧ bs = i.operandBytes ++ rest := by
  cases op with
  | ckclr | cktrail | pktReset | pktReady | pktUc =>
    cases h
    exact ⟨rfl, rfl⟩
  | _ =>
    simp only [readOperands, readFB, readFR, readFC, readFV, readFF, readFM, readFP] at h
    split at h
    · cases h
      exact ⟨rfl, by simp [Instr.operandBytes, bytesLE16_ofLE16, bytesLE24_ofLE24]⟩
    · cases h

/-- Settles O1: the opcode byte selects its format, and the format reads back its fields. -/
theorem decodeOfEncodeIsTheCommand : Obligations.DecodeOfEncodeIsTheCommand := fun i rest =>
  decode_eq_ok_iff.2 ⟨i.opcode, i.operandBytes ++ rest, rfl, readOperands_operandBytes i rest⟩

/-- Settles O2: byte 0 is the opcode of the command, and the bytes its format read are its operand bytes. -/
theorem decodedBytesAreTheDescriptor : Obligations.DecodedBytesAreTheDescriptor := by
  intro bs rest i h
  obtain ⟨op, tail, rfl, operands⟩ := decode_eq_ok_iff.1 h
  obtain ⟨rfl, rfl⟩ := operandBytes_of_readOperands operands
  rfl

/-- Settles O5: each word is the descriptor of its command. -/
theorem sampleDescriptorsDecode : Obligations.SampleDescriptorsDecode :=
  have decoded (i : Instr) : decode (encode i ++ []) = .ok (i, []) := decodeOfEncodeIsTheCommand i []
  ⟨decoded .ckclr, decoded (.ckfeed 0xFFFF 2), decoded (.pktBright 5), decoded (.chunk 0xFF00 0x0200 999),
    decoded (.fillrect 0x1234 1 2 3 5 6 95 383), decoded (.bitmap 1 0 255 0 10 20 9 2 0x200),
    decoded (.pixels 0x1234 1 2 3 0x100 3), decoded (.varlen 2097151)⟩

end Sys2Proof
end

section
/-! The pending command's descriptor: what a latch decodes to, and the step that follows (R61, R62, R66). -/

namespace Sys2Proof.Machine

/-! ### What a latch decodes to -/

section
variable {m : Memory}

theorem fetchFrom_of_unwritten (h : Memory.read m 0 = none) : fetchFrom m = .unwritten := by
  simp only [fetchFrom, h]

theorem fetchFrom_of_illegal {b : Byte} (h : Memory.read m 0 = some b) (illegal : Opcode.ofByte b = none) :
    fetchFrom m = .illegal := by
  simp only [fetchFrom, h, illegal]

/-- A gap below LEN(op) is met before anything is decoded. -/
theorem fetchFrom_of_gap {op : Opcode} (h : Memory.read m 0 = some op.code)
    (gap : ∃ k, k < op.length ∧ Memory.read m k = none) : fetchFrom m = .unwritten := by
  have range : Memory.readRange m 0 op.length = none := Memory.readRange_none.2 (by simpa only [Nat.zero_add] using gap)
  simp only [fetchFrom, h, Opcode.ofByte_code, range]

/-- A latch that holds a command's descriptor decodes to the command. -/
theorem fetchFrom_of_encode {i : Instr} (h : ∀ k, k < (encode i).length → Memory.read m k = (encode i)[k]?) :
    fetchFrom m = .command i := by
  have code : Memory.read m 0 = some i.opcode.code := h 0 (Nat.succ_pos _)
  have range : Memory.readRange m 0 i.opcode.length = some (encode i) := by
    rw [← length_encode]
    exact Memory.readRange_some.2 ⟨rfl, by simpa only [Nat.zero_add] using h⟩
  have decoded : decode (encode i) = .ok (i, []) := by
    simpa only [List.append_nil] using decodeOfEncodeIsTheCommand i []
  simp only [fetchFrom, code, Opcode.ofByte_code, range, decoded]

/-- Only the bytes below LEN(op) are read (R62). -/
theorem fetchFrom_congr {m' : Memory} {op : Opcode} (h : Memory.read m 0 = some op.code)
    (same : ∀ k, k < op.length → Memory.read m' k = Memory.read m k) : fetchFrom m' = fetchFrom m := by
  have h' : Memory.read m' 0 = some op.code := (same 0 op.length_pos).trans h
  have range : Memory.readRange m' 0 op.length = Memory.readRange m 0 op.length :=
    Memory.readRange_congr (by simpa only [Nat.zero_add] using same)
  simp only [fetchFrom, h, h', Opcode.ofByte_code, range]

end

/-- Settles O3: the descriptor is the opcode byte and the operand bytes of its format, and decoding reads that far. -/
theorem descriptorLengthIsTheOpcodes : Obligations.DescriptorLengthIsTheOpcodes :=
  ⟨length_encode, rfl, fun _ _ _ => fetchFrom_congr⟩

/-! ### The step of a pending command -/

section
variable {s s' : State} {m : Memory}

/-- The block's turn moves at most the host's plan on, and so the latch decodes as before. -/
theorem fetch_of_turn (hl : s.latch = some m) (turn : BlockTurn s s') : fetch s' = fetchFrom m := by
  obtain ⟨-, rfl⟩ | ⟨plan, -, rfl⟩ | ⟨plan, -, rfl⟩ := turn <;> simp only [fetch, hl, Option.getD_some]

variable (hf : s.fault = none) (hp : s.pending = true) (hl : s.latch = some m) (turn : BlockTurn s s')
include hf hp hl turn

theorem step_of_unwritten (h : fetchFrom m = .unwritten) : step s = .next { s with fault := some .unwrittenRead } := by
  rw [step_of_turn hf hp turn, runPending, fetch_of_turn hl turn, h]
  rfl

theorem step_of_illegal (h : fetchFrom m = .illegal) : step s = .next (s'.failed .illegalCommand) := by
  rw [step_of_turn hf hp turn, runPending, fetch_of_turn hl turn, h]
  rfl

theorem step_of_command {i : Instr} (h : fetchFrom m = .command i) : step s = recordFault s (exec i s') := by
  rw [step_of_turn hf hp turn, runPending, fetch_of_turn hl turn, h]

end

/-- Settles O7: the gap stops the decoding, at byte 0 or below LEN(op), and a recorded fault stops every step. -/
theorem unwrittenDescriptorByteFaults : Obligations.UnwrittenDescriptorByteFaults := by
  intro s s' m hf hp hl turn gap
  refine ⟨step_of_unwritten hf hp hl turn ?_, rfl⟩
  obtain none | ⟨op, k, code, below, none⟩ := gap
  · exact fetchFrom_of_unwritten none
  · exact fetchFrom_of_gap code ⟨k, below, none⟩

/-- Settles O6: bytes that decode to a command with nothing left are its descriptor, so the latch holds that. -/
theorem stepRunsTheDecodedCommand : Obligations.StepRunsTheDecodedCommand := by
  intro s s' m bs i hf hp hl decoded held turn
  have descriptor : bs = encode i := by
    simpa only [List.append_nil] using decodedBytesAreTheDescriptor bs [] i decoded
  rw [step_of_command hf hp hl turn (fetchFrom_of_encode (descriptor ▸ held))]
  exact ⟨fun t e => by rw [e]; rfl, fun f e => by rw [e]; rfl⟩

/-- Settles O40: the frames a command queues are packets of its opcode. -/
theorem emittedFramesHaveTheirLengths : Obligations.EmittedFramesHaveTheirLengths := by
  intro i s t f e added
  obtain ⟨frames, queue, packets⟩ := endsAs_outq (e ▸ exec_endsAs i s)
  rw [queue, List.drop_left] at added
  obtain ⟨magic, length⟩ := packets f added
  refine ⟨magic, ?_⟩
  revert length
  cases i.opcode <;> exact id

end Sys2Proof.Machine
end

section
/-! The lines of a program: which an assembler refuses, and what the others stand for (R68, R69). -/

namespace Sys2Proof
open Sys2Proof.Machine

/-! ### Numbers in fields -/

theorem operandsFit_nil {vs : List Nat} : operandsFit [] vs = true ↔ vs = [] := by
  cases vs <;> simp [operandsFit]

theorem operandsFit_cons {w : Nat} {ws vs : List Nat} :
    operandsFit (w :: ws) vs = true ↔ ∃ v us, vs = v :: us ∧ v < 2 ^ w ∧ operandsFit ws us = true := by
  cases vs <;> simp [operandsFit]

/-- Numbers fit their fields when there is one for each field, below the field's bound. -/
theorem operandsFit_iff {ws vs : List Nat} : operandsFit ws vs = true ↔
    vs.length = ws.length ∧ ∀ (k w v : Nat), ws[k]? = some w → vs[k]? = some v → v < 2 ^ w := by
  induction ws generalizing vs with
  | nil => simp [operandsFit_nil]
  | cons w ws ih =>
    rw [operandsFit_cons]
    constructor
    · rintro ⟨v, us, rfl, hv, fit⟩
      obtain ⟨len, below⟩ := ih.1 fit
      refine ⟨by simp [len], fun k x y => ?_⟩
      cases k with
      | zero => simpa using fun hx hy => hx ▸ hy ▸ hv
      | succ k => simpa using below k x y
    · rintro ⟨len, below⟩
      cases vs with
      | nil => simp at len
      | cons v us =>
        exact ⟨v, us, rfl, below 0 w v rfl rfl, ih.2 ⟨by simpa using len, fun k => below (k + 1)⟩⟩

/-- The bytes of numbers in fields of the given widths in bits, each low byte first (R63, R64). -/
def fieldBytes (ws vs : List Nat) : List Byte := (ws.zip vs).flatMap fun field => littleEndian (field.1 / 8) field.2

theorem fieldBytes_cons (w v : Nat) (ws vs : List Nat) :
    fieldBytes (w :: ws) (v :: vs) = littleEndian (w / 8) v ++ fieldBytes ws vs := rfl

theorem length_littleEndian (n v : Nat) : (littleEndian n v).length = n := by simp [littleEndian]

/-- The low byte comes first. -/
theorem littleEndian_succ (n v : Nat) : littleEndian (n + 1) v = BitVec.ofNat 8 v :: littleEndian n (v / 256) := by
  simp [littleEndian, List.range_succ_eq_map, Nat.div_div_eq_div_mul, Nat.pow_succ']

/-- Every `n` bytes are the field of a number that fits it. -/
theorem exists_littleEndian (n : Nat) {bs : List Byte} (h : n ≤ bs.length) :
    ∃ v rest, v < 256 ^ n ∧ bs = littleEndian n v ++ rest := by
  induction n generalizing bs with
  | zero => exact ⟨0, bs, by simp, rfl⟩
  | succ n ih =>
    cases bs with
    | nil => simp at h
    | cons b bs =>
      obtain ⟨v, rest, hv, rfl⟩ := ih (Nat.le_of_succ_le_succ h)
      have hb := b.isLt
      refine ⟨b.toNat + 256 * v, rest, by rw [Nat.pow_succ']; omega, ?_⟩
      have low : BitVec.ofNat 8 (b.toNat + 256 * v) = b :=
        BitVec.eq_of_toNat_eq (by rw [BitVec.toNat_ofNat]; omega)
      have high : (b.toNat + 256 * v) / 256 = v := by omega
      rw [littleEndian_succ, low, high, List.cons_append]

/-- Bytes enough for fields of whole bytes are the fields of numbers that fit them. -/
theorem exists_fieldBytes (ws : List Nat) (whole : ∀ w, w ∈ ws → w / 8 * 8 = w) {bs : List Byte}
    (h : (ws.map (· / 8)).sum ≤ bs.length) :
    ∃ vs rest, operandsFit ws vs = true ∧ bs = fieldBytes ws vs ++ rest := by
  induction ws generalizing bs with
  | nil => exact ⟨[], bs, rfl, rfl⟩
  | cons w ws ih =>
    rw [List.map_cons, List.sum_cons] at h
    obtain ⟨v, bs, hv, rfl⟩ := exists_littleEndian (w / 8) (Nat.le_of_add_right_le h)
    obtain ⟨vs, rest, fit, rfl⟩ := ih (fun x hx => whole x (.tail _ hx)) (bs := bs) (by
      rw [List.length_append, length_littleEndian] at h
      omega)
    have bound : 256 ^ (w / 8) = 2 ^ w := by
      rw [show 256 = 2 ^ 8 from rfl, ← Nat.pow_mul, Nat.mul_comm, whole w (.head _)]
    exact ⟨v :: vs, rest, operandsFit_cons.2 ⟨v, vs, rfl, bound ▸ hv, fit⟩,
      by rw [fieldBytes_cons, List.append_assoc]⟩

/-! ### Command lines -/

/-- Byte `k` of a field that reaches beyond it. -/
theorem extractByte_ofNat {n k : Nat} (h : 8 * k + 8 ≤ n) (v : Nat) :
    (BitVec.ofNat n v).extractLsb' (8 * k) 8 = BitVec.ofNat 8 (v / 256 ^ k) := by
  apply BitVec.eq_of_getLsbD_eq
  intro j hj
  have inside : 8 * k + j < n := by omega
  rw [show 256 = 2 ^ 8 from rfl, ← Nat.pow_mul, BitVec.getLsbD_extractLsb', BitVec.getLsbD_ofNat, BitVec.getLsbD_ofNat,
    Nat.testBit_div_two_pow, decide_eq_true inside, Bool.true_and, Nat.add_comm j]

@[simp] theorem bytesLE16_ofNat (v : Nat) : bytesLE16 (BitVec.ofNat 16 v) = littleEndian 2 v := by
  rw [bytesLE16, extractByte_ofNat (k := 0) (by decide), extractByte_ofNat (k := 1) (by decide)]
  rfl

@[simp] theorem bytesLE24_ofNat (v : Nat) : bytesLE24 (BitVec.ofNat 24 v) = littleEndian 3 v := by
  rw [bytesLE24, extractByte_ofNat (k := 0) (by decide), extractByte_ofNat (k := 1) (by decide),
    extractByte_ofNat (k := 2) (by decide)]
  rfl

/-- An 8-bit field is its byte. -/
@[simp] theorem littleEndian_one (v : Nat) : littleEndian 1 v = [BitVec.ofNat 8 v] := by
  simp [littleEndian]

/-- Numbers that fit stand for the command of the mnemonic with those numbers in its fields. -/
theorem assemble_of_fit {op : Opcode} {vs : List Nat} (fit : operandsFit op.operandWidths vs = true) :
    ∃ i, assemble op vs = some i ∧ i.opcode = op ∧ i.operandBytes = fieldBytes op.operandWidths vs := by
  have fields := fit
  cases op <;> simp only [Opcode.operandWidths, operandsFit_cons, operandsFit_nil] at fields
  case ckclr | cktrail | pktReset | pktReady | pktUc =>
    subst fields
    exact ⟨_, if_pos fit, rfl, rfl⟩
  case pktBright =>
    obtain ⟨level, _, rfl, -, rfl⟩ := fields
    exact ⟨_, if_pos fit, rfl, by simp [Opcode.operandWidths, fieldBytes, Instr.operandBytes]⟩
  case ckfeed | sum8 | hisum | ckpair | uploadSeq =>
    obtain ⟨addr, _, rfl, -, len, _, rfl, -, rfl⟩ := fields
    exact ⟨_, if_pos fit, rfl, by simp [Opcode.operandWidths, fieldBytes, Instr.operandBytes]⟩
  case chunk =>
    obtain ⟨addr, _, rfl, -, len, _, rfl, -, index, _, rfl, -, rfl⟩ := fields
    exact ⟨_, if_pos fit, rfl, by simp [Opcode.operandWidths, fieldBytes, Instr.operandBytes]⟩
  case varlen =>
    obtain ⟨v, _, rfl, -, rfl⟩ := fields
    exact ⟨_, if_pos fit, rfl, by simp [Opcode.operandWidths, fieldBytes, Instr.operandBytes]⟩
  case fillrect =>
    obtain ⟨seq, _, rfl, -, r, _, rfl, -, g, _, rfl, -, b, _, rfl, -, x0, _, rfl, -, y0, _, rfl, -, x1, _, rfl, -, y1, _,
      rfl, -, rfl⟩ := fields
    exact ⟨_, if_pos fit, rfl, by simp [Opcode.operandWidths, fieldBytes, Instr.operandBytes]⟩
  case bitmap =>
    obtain ⟨seq, _, rfl, -, r, _, rfl, -, g, _, rfl, -, b, _, rfl, -, x0, _, rfl, -, y0, _, rfl, -, w, _, rfl, -, h, _,
      rfl, -, addr, _, rfl, -, rfl⟩ := fields
    exact ⟨_, if_pos fit, rfl, by simp [Opcode.operandWidths, fieldBytes, Instr.operandBytes]⟩
  case pixels =>
    obtain ⟨seq, _, rfl, -, r, _, rfl, -, g, _, rfl, -, b, _, rfl, -, addr, _, rfl, -, count, _, rfl, -, rfl⟩ := fields
    exact ⟨_, if_pos fit, rfl, by simp [Opcode.operandWidths, fieldBytes, Instr.operandBytes]⟩

/-! ### What a line stands for -/

theorem lineEvents_of_refused {line : AsmLine} (h : ¬ line.wellFormed = true) : lineEvents line = none := if_neg h

theorem wellFormed_ibw_iff {addr : Nat} {bytes : List Nat} : (AsmLine.ibw addr bytes).wellFormed = true ↔
    addr + bytes.length ≤ 65536 ∧ ∀ b, b ∈ bytes → b ≤ 255 := by
  simp only [AsmLine.wellFormed, Bool.and_eq_true, decide_eq_true_eq, List.all_eq_true, Nat.lt_succ_iff]
  exact Iff.rfl

theorem wellFormed_cksum_iff {addr len : Nat} :
    (AsmLine.cksum addr len).wellFormed = true ↔ addr < 65536 ∧ len < 65536 := by
  simp [AsmLine.wellFormed]

theorem wellFormed_check_iff {e : Nat} : (AsmLine.check e).wellFormed = true ↔ e < 256 := by
  simp [AsmLine.wellFormed]

/-- A line with one number for a field of `w` bits is refused from 2^w on. -/
theorem not_operandsFit_one {w v : Nat} (h : 2 ^ w ≤ v) : ¬ operandsFit [w] [v] = true := by
  simpa [operandsFit_cons, operandsFit_nil] using h

/-- The write of IBUF byte `addr + k` (R69). -/
theorem ibwEvents_getElem? {addr k : Nat} {bytes : List Byte} {b : Byte} (h : bytes[k]? = some b) :
    (ibwEvents addr bytes)[k]? = some (.act (.write (.ibuf .w8 (BitVec.ofNat 16 (addr + k)) (byteWord b)))) := by
  have hk : k < bytes.length := (List.getElem?_eq_some_iff.1 h).1
  have cell : ((List.range bytes.length).zip bytes)[k]? = some (k, b) :=
    List.getElem?_zip_eq_some.2 ⟨List.getElem?_range hk, h⟩
  rw [ibwEvents, List.getElem?_map, cell]
  rfl

theorem length_ibwEvents (addr : Nat) (bytes : List Byte) : (ibwEvents addr bytes).length = bytes.length := by
  simp [ibwEvents]

/-- A line of bytes inside IBUF is one write for each, at rising addresses (R69). -/
theorem lineEvents_ibw {addr : Nat} {bytes : List Nat} (inside : addr + bytes.length ≤ 65536)
    (small : ∀ b, b ∈ bytes → b ≤ 255) :
    ∃ es, lineEvents (.ibw addr bytes) = some es ∧ es.length = bytes.length ∧
      ∀ k b, bytes[k]? = some b → ∃ (a : Half) (v : Word), a.toNat = addr + k ∧ v.toNat = b ∧
        es[k]? = some (.act (.write (.ibuf .w8 a v))) := by
  refine ⟨ibwEvents addr (bytes.map (BitVec.ofNat 8)), if_pos (wellFormed_ibw_iff.2 ⟨inside, small⟩),
    by simp [length_ibwEvents], fun k b hb => ?_⟩
  obtain ⟨hk, -⟩ := List.getElem?_eq_some_iff.1 hb
  have := small b (List.mem_of_getElem? hb)
  refine ⟨BitVec.ofNat 16 (addr + k), byteWord (BitVec.ofNat 8 b), ?_, ?_,
    ibwEvents_getElem? (by rw [List.getElem?_map, hb]; rfl)⟩
  · rw [BitVec.toNat_ofNat]
    omega
  · rw [toNat_byteWord, BitVec.toNat_ofNat]
    omega

/-- A command line whose numbers fit stands for its command, whose descriptor is the opcode and the fields (R68). -/
theorem lineEvents_cmd {op : Opcode} {vs : List Nat} (fit : operandsFit op.operandWidths vs = true) :
    ∃ i, assemble op vs = some i ∧ i.opcode = op ∧ lineEvents (.cmd op vs) = some (commandEvents i) ∧
      encode i = op.code :: fieldBytes op.operandWidths vs := by
  obtain ⟨i, assembled, rfl, bytes⟩ := assemble_of_fit fit
  refine ⟨i, assembled, rfl, ?_, by rw [encode, bytes]⟩
  have wf : (AsmLine.cmd i.opcode vs).wellFormed = true := fit
  simp only [lineEvents, wf, if_true, assembled, Option.map_some]

/-- CKSUM is CKCLR, then CKFEED (R69). -/
theorem lineEvents_cksum (addr len : Half) : lineEvents (.cksum addr.toNat len.toNat) =
    some (commandEvents .ckclr ++ commandEvents (.ckfeed addr len)) := by
  have wf : (AsmLine.cksum addr.toNat len.toNat).wellFormed = true := wellFormed_cksum_iff.2 ⟨addr.isLt, len.isLt⟩
  simp only [lineEvents, wf, if_true, BitVec.ofNat_toNat, BitVec.setWidth_eq]

/-- CHECK of a byte is one event (R69, log 16). -/
theorem lineEvents_check (e : Byte) : lineEvents (.check e.toNat) = some [.check e] := by
  have wf : (AsmLine.check e.toNat).wellFormed = true := wellFormed_check_iff.2 e.isLt
  simp only [lineEvents, wf, if_true, BitVec.ofNat_toNat, BitVec.setWidth_eq]

/-- Settles O8: a line is refused when its numbers do not fit, and one that fits has its events as written out. -/
theorem assemblerRefusesWideOperands : Obligations.AssemblerRefusesWideOperands := by
  have refused (op : Opcode) (vs : List Nat) (h : ¬ operandsFit op.operandWidths vs = true) :
      lineEvents (.cmd op vs) = none := lineEvents_of_refused h
  refine ⟨fun v wide => refused _ _ (not_operandsFit_one wide), fun a l wide => refused _ _ ?_,
    fun v wide => refused _ _ (not_operandsFit_one (by omega)), rfl, fun ws vs => operandsFit_iff,
    fun op vs h => refused op vs (by simp [h]), fun op vs => lineEvents_cmd, fun addr bytes => lineEvents_ibw,
    fun addr bytes bad => lineEvents_of_refused ?_, rfl, lineEvents_cksum, fun a l wide => lineEvents_of_refused ?_,
    lineEvents_check, fun e wide => lineEvents_of_refused ?_⟩
  · rw [operandsFit_iff]
    rintro ⟨-, below⟩
    have := below 0 16 a rfl rfl
    have := below 1 16 l rfl rfl
    omega
  · rw [wellFormed_ibw_iff]
    rintro ⟨inside, small⟩
    obtain beyond | ⟨b, hb, wide⟩ := bad
    · omega
    · exact absurd (small b hb) (by omega)
  · rw [wellFormed_cksum_iff]
    omega
  · rw [wellFormed_check_iff]
    omega

end Sys2Proof
end

section
/-! Illegal opcodes (R66). -/

namespace Sys2Proof.Machine

/-- The fields of a format are the descriptor's bytes beside its opcode (R63). -/
theorem sum_operandWidths (op : Opcode) : (op.operandWidths.map (· / 8)).sum + 1 = op.length := by
  cases op <;> rfl

/-- Every field has whole bytes (R63). -/
theorem operandWidths_whole (op : Opcode) : ∀ w, w ∈ op.operandWidths → w / 8 * 8 = w := by
  cases op <;> decide

/-- LEN(op) − 1 bytes or more after an opcode begin with the operand bytes of a command, whatever they are. -/
theorem exists_operandBytes (op : Opcode) {bs : List Byte} (h : op.length ≤ bs.length + 1) :
    ∃ (i : Instr) (rest : List Byte), i.opcode = op ∧ bs = i.operandBytes ++ rest := by
  have := sum_operandWidths op
  obtain ⟨vs, rest, fit, rfl⟩ := exists_fieldBytes op.operandWidths (operandWidths_whole op) (bs := bs) (by omega)
  obtain ⟨i, -, rfl, bytes⟩ := assemble_of_fit fit
  exact ⟨i, rest, rfl, by rw [bytes]⟩

/-- The bytes that are no opcode (R66). -/
theorem ofByte_eq_none_iff (b : Byte) : Opcode.ofByte b = none ↔
    (b.toNat = 0x00 ∨ (0x07 ≤ b.toNat ∧ b.toNat ≤ 0x0F) ∨ (0x14 ≤ b.toNat ∧ b.toNat ≤ 0x1F) ∨
      (0x22 ≤ b.toNat ∧ b.toNat ≤ 0x2F) ∨ (0x33 ≤ b.toNat ∧ b.toNat ≤ 0x37) ∨ 0x39 ≤ b.toNat) := by
  have other : Opcode.ofByte b = none ↔ ∀ op, op ∈ Opcode.all → op.code.toNat ≠ b.toNat := by
    simp [Opcode.ofByte, BitVec.toNat_inj]
  simp only [other, Opcode.all, Opcode.code, List.forall_mem_cons, List.not_mem_nil, false_imp_iff,
    implies_true, and_true, BitVec.ofNat_eq_ofNat, BitVec.toNat_ofNat]
  omega

/-- Only IllegalCommand has the code 0x05 (R170). -/
theorem code_ne_five {e : CmdError} (h : e ≠ .illegalCommand) : e.code ≠ 0x05 := by
  cases e with
  | illegalCommand => contradiction
  | _ => decide

/-- A command's execution does not end with the code of IllegalCommand (R66). -/
theorem err_ne_five_of_ends {s t : State} (h : Ends s (.next t)) : t = s ∨ t.err ≠ 0x05 := by
  cases h with
  | failed e legal => exact .inr (code_ne_five legal)
  | held => exact .inl rfl
  | wrote acc r => exact .inr nofun
  | emitted frames room => exact .inr nofun

/-- Settles O4: decoding stops at an illegal byte 0, and the bytes after a legal one are always some command's. -/
theorem illegalOpcodesRaiseIllegalCommand : Obligations.IllegalOpcodesRaiseIllegalCommand := by
  refine ⟨ofByte_eq_none_iff, by decide +kernel, fun s s' m b hf hp hl byte illegal turn => ?_, fun op bs long => ?_,
    fun i s t e => err_ne_five_of_ends (e ▸ exec_ends i s)⟩
  · exact step_of_illegal hf hp hl turn (fetchFrom_of_illegal byte illegal)
  · obtain ⟨i, rest, rfl, rfl⟩ := exists_operandBytes op long
    exact ⟨i, rest, rfl, decodeOfEncodeIsTheCommand i rest⟩

end Sys2Proof.Machine
end

section
/-! The checksum functions as numbers: their formulas, checksum 2 in closed form, and what a 16-bit accumulator of the sum
gives (R80 to R84). -/

namespace Sys2Proof.Machine

/-! ### Sums -/

@[simp] theorem byteSum_append (bs cs : List Byte) : byteSum (bs ++ cs) = byteSum bs + byteSum cs := by
  simp [byteSum]

theorem toNat_sumMod256 (bs : List Byte) : (sumMod256 bs).toNat = byteSum bs % 256 := BitVec.toNat_ofNat ..

theorem toNat_highByteOfSum (bs : List Byte) : (highByteOfSum bs).toNat = byteSum bs / 256 % 256 := BitVec.toNat_ofNat ..

/-- The sum of INCLUSIVE's checksum 2: c1 is counted twice (R83). -/
theorem byteSum_append_sumMod256 (bs : List Byte) :
    byteSum (bs ++ [sumMod256 bs]) = byteSum bs + byteSum bs % 256 := by
  rw [byteSum_append, ← toNat_sumMod256]
  rfl

theorem checksum2_inclusive (bs : List Byte) :
    checksum2 .inclusive bs = BitVec.ofNat 8 ((byteSum bs + byteSum bs % 256) / 256) := by
  rw [← byteSum_append_sumMod256]
  rfl

theorem toNat_checksum2_inclusive (bs : List Byte) :
    (checksum2 .inclusive bs).toNat = (byteSum bs + byteSum bs % 256) / 256 % 256 := by
  rw [checksum2_inclusive, BitVec.toNat_ofNat]

theorem toNat_checksum2_exclusive (bs : List Byte) : (checksum2 .exclusive bs).toNat = byteSum bs / 256 % 256 :=
  toNat_highByteOfSum bs

/-- Settles O10. -/
theorem checksumFunctionsMeetTheirFormulas : Obligations.ChecksumFunctionsMeetTheirFormulas := fun X =>
  ⟨toNat_sumMod256 X, toNat_highByteOfSum X, rfl, rfl, rfl, rfl, rfl⟩

/-- Twice the low byte carries into the next one from 128 on (R83). -/
theorem add_mod_div_256 (S : Nat) : (S + S % 256) / 256 = S / 256 + if 128 ≤ S % 256 then 1 else 0 := by
  split <;> omega

/-- Settles O11. -/
theorem checksum2ClosedForm : Obligations.Checksum2ClosedForm := by
  intro X
  have inclusive := toNat_checksum2_inclusive X
  have exclusive := toNat_checksum2_exclusive X
  rw [add_mod_div_256] at inclusive
  refine ⟨inclusive, exclusive, ?_⟩
  rw [← BitVec.toNat_inj, inclusive, exclusive]
  split <;> omega

/-- Settles O12: each function depends on the sum only through its remainder modulo 65536. -/
theorem sixteenBitAccumulatorSuffices : Obligations.SixteenBitAccumulatorSuffices := by
  intro X A hA
  rw [toNat_sumMod256, toNat_highByteOfSum, toNat_checksum2_inclusive]
  omega

/-! ### The accumulator's checksums (R87) -/

theorem accChecksum1_eq (acc : Half) : accChecksum1 acc = BitVec.ofNat 8 acc.toNat := by
  simp [accChecksum1, BitVec.extractLsb']

theorem accChecksum2_inclusive (acc : Half) :
    accChecksum2 .inclusive acc = BitVec.ofNat 8 ((acc.toNat + acc.toNat % 256) % 65536 / 256) := by
  have low : ((accChecksum1 acc).setWidth 16).toNat = acc.toNat % 256 := by
    rw [accChecksum1_eq, BitVec.toNat_setWidth, BitVec.toNat_ofNat]
    omega
  rw [accChecksum2, BitVec.extractLsb', BitVec.toNat_add, low, Nat.shiftRight_eq_div_pow]

/-- An accumulator of the sum of X gives Trailer(X) (R84, R87). -/
theorem accChecksums_eq_trailer {X : List Byte} {A : Half} (hA : A.toNat = byteSum X % 65536) :
    [accChecksum1 A, accChecksum2 Config.chk2Span A] = trailer X := by
  obtain ⟨sum, -, second⟩ := sixteenBitAccumulatorSuffices X A hA
  have c1 : accChecksum1 A = sumMod256 X :=
    BitVec.eq_of_toNat_eq (by rw [accChecksum1_eq, BitVec.toNat_ofNat, sum])
  have c2 : accChecksum2 .inclusive A = checksum2 .inclusive X := by
    rw [accChecksum2_inclusive, ← second, BitVec.ofNat_toNat, BitVec.setWidth_eq]
  exact congrArg₂ (fun a b => [a, b]) c1 c2

end Sys2Proof.Machine
end

section
/-! Commands that read one range of IBUF and write registers from its bytes: CKFEED, SUM8, HISUM and CKPAIR (R86, R88 to
R90). -/

namespace Sys2Proof.Machine

/-! ### Bytes that stand in IBUF -/

/-- A byte list stands in IBUF exactly when its two parts do, the second after the first. -/
theorem ibufHolds_append {s : State} {a : Nat} {bs cs : List Byte} :
    IbufHolds s a (bs ++ cs) ↔ IbufHolds s a bs ∧ IbufHolds s (a + bs.length) cs := by
  constructor
  · intro holds
    constructor
    · intro k hk
      rw [holds k (by rw [List.length_append]; omega), List.getElem?_append_left hk]
    · intro k hk
      rw [Nat.add_assoc, holds (bs.length + k) (by rw [List.length_append]; omega),
        List.getElem?_append_right (by omega), Nat.add_sub_cancel_left]
  · rintro ⟨first, second⟩ k hk
    rw [List.length_append] at hk
    by_cases inFirst : k < bs.length
    · rw [first k inFirst, List.getElem?_append_left inFirst]
    · rw [List.getElem?_append_right (by omega), ← second (k - bs.length) (by omega)]
      congr 1
      omega

/-! ### Range commands -/

/-- The command reads the bytes of its range and completes with the writes they give. -/
def ReadsRange (command : Half → Half → Instr) (writes : List Byte → State → State) : Prop :=
  ∀ (addr len : Half) (s : State), exec (command addr len) s =
    withRange addr.toNat len.toNat s (withBytes addr.toNat len.toNat s fun bs => complete (writes bs s))

namespace ReadsRange
variable {command : Half → Half → Instr} {writes : List Byte → State → State}

theorem of_holds (h : ReadsRange command writes) (s : State) (addr len : Half) (bs : List Byte)
    (inside : addr.toNat + len.toNat ≤ 65536) (length : bs.length = len.toNat) (holds : IbufHolds s addr.toNat bs) :
    exec (command addr len) s = SuccessEnd (writes bs s) := by
  rw [h, withRange_of_le inside, withBytes_of_read length (length ▸ holds)]
  rfl

theorem of_empty (h : ReadsRange command writes) (s : State) (addr : Half) :
    exec (command addr 0) s = SuccessEnd (writes [] s) :=
  h.of_holds s addr 0 [] addr.isLt.le rfl nofun

theorem of_outside (h : ReadsRange command writes) (s : State) (addr len : Half)
    (outside : 65536 < addr.toNat + len.toNat) : exec (command addr len) s = ErrorEnd s 0x01 := by
  rw [h, withRange_of_gt outside]
  rfl

theorem of_gap (h : ReadsRange command writes) (s : State) (addr len : Half)
    (inside : addr.toNat + len.toNat ≤ 65536) (gap : IbufGap s addr.toNat len.toNat) :
    exec (command addr len) s = .fault .unwrittenRead := by
  rw [h, withRange_of_le inside, withBytes_of_gap gap]

end ReadsRange

end Sys2Proof.Machine
end

section
/-! The six commands of the checksum generator (R85 to R90). -/

namespace Sys2Proof.Machine

/-- Settles O13. -/
theorem ckclrClearsAcc : Obligations.CkclrClearsAcc := ⟨⟨rfl, rfl⟩, fun _ => rfl⟩

/-! ### CKFEED -/

/-- ACC after feeding bytes (R86). -/
def State.fed (s : State) (bs : List Byte) : State := { s with acc := s.acc + BitVec.ofNat 16 (byteSum bs) }

theorem State.toNat_fed_acc (s : State) (bs : List Byte) : (s.fed bs).acc.toNat = (s.acc.toNat + byteSum bs) % 65536 := by
  simp [State.fed]

theorem State.fed_eq (s : State) (bs : List Byte) :
    s.fed bs = { s with acc := BitVec.ofNat 16 ((s.acc.toNat + byteSum bs) % 65536) } := by
  rw [← State.toNat_fed_acc, BitVec.ofNat_toNat, BitVec.setWidth_eq]
  rfl

@[simp] theorem State.fed_nil (s : State) : s.fed [] = s := by
  simp [State.fed, byteSum]

/-- Feeding two lists, one after the other, is feeding both at once (R86). -/
theorem State.fed_completed_fed_completed (s : State) (bs cs : List Byte) :
    ((s.fed bs).completed.fed cs).completed = (s.fed (bs ++ cs)).completed := by
  simp [State.fed, State.completed, BitVec.ofNat_add, BitVec.add_assoc]

theorem readsRange_ckfeed : ReadsRange .ckfeed fun bs s => s.fed bs := fun addr len s => by
  simp [exec, execCkfeed, State.fed, BitVec.ofNat_add]

/-- Settles O14: feeding adds sums, and the sum of a list is the sum of its two parts. -/
theorem ckfeedAddsItsRange : Obligations.CkfeedAddsItsRange := by
  refine ⟨⟨rfl, rfl⟩, fun s addr len bs inside length holds => ?_, fun s addr => ?_, readsRange_ckfeed.of_outside,
    readsRange_ckfeed.of_gap, fun s addr addr' n n' len bs inside length holds start split => ?_⟩
  · rw [readsRange_ckfeed.of_holds s addr len bs inside length holds, State.fed_eq]
  · rw [readsRange_ckfeed.of_empty, State.fed_nil]
  · obtain ⟨X, Y, rfl, hX⟩ : ∃ X Y, bs = X ++ Y ∧ X.length = n.toNat :=
      ⟨bs.take n.toNat, bs.drop n.toNat, (List.take_append_drop ..).symm, List.length_take_of_le (by omega)⟩
    have hY : Y.length = n'.toNat := by
      rw [List.length_append] at length
      omega
    obtain ⟨first, second⟩ := ibufHolds_append.1 holds
    rw [hX, ← start] at second
    refine ⟨(s.fed X).completed, (s.fed (X ++ Y)).completed,
      readsRange_ckfeed.of_holds s addr n X (by omega) hX first, ?_,
      readsRange_ckfeed.of_holds s addr len (X ++ Y) inside length holds⟩
    rw [← State.fed_completed_fed_completed]
    exact readsRange_ckfeed.of_holds (s.fed X).completed addr' n' Y (by omega) hY second

/-! ### CKTRAIL -/

/-- Settles O15: after CKCLR and CKFEED of X, ACC is the sum of X modulo 65536. -/
theorem cktrailGivesTheTrailerOfTheFedBytes : Obligations.CktrailGivesTheTrailerOfTheFedBytes := by
  refine ⟨⟨rfl, rfl⟩, fun s => ?_, fun s addr len X inside length holds => ?_⟩
  · rw [← accChecksum1_eq, ← accChecksum2_inclusive]
    rfl
  · refine ⟨_, _, _, rfl, readsRange_ckfeed.of_holds _ addr len X inside length holds, rfl,
      accChecksums_eq_trailer ?_, rfl⟩
    calc
      _ = (0 + byteSum X) % 65536 := State.toNat_fed_acc _ X
      _ = byteSum X % 65536 := by rw [Nat.zero_add]

/-! ### SUM8, HISUM and CKPAIR -/

theorem readsRange_sum8 : ReadsRange .sum8 fun bs s => s.withResult1 (sumMod256 bs) := fun _ _ _ => rfl

theorem readsRange_hisum : ReadsRange .hisum fun bs s => s.withResult1 (highByteOfSum bs) := fun _ _ _ => rfl

theorem readsRange_ckpair : ReadsRange .ckpair fun bs s => s.withResult2 (sumMod256 bs) (checksum2 .inclusive bs) :=
  fun _ _ _ => rfl

/-- Settles O16. -/
theorem sum8WritesTheSumMod256 : Obligations.Sum8WritesTheSumMod256 := by
  refine ⟨⟨rfl, rfl⟩, fun s addr len bs inside length holds => ?_, readsRange_sum8.of_empty,
    readsRange_sum8.of_outside, readsRange_sum8.of_gap⟩
  rw [readsRange_sum8.of_holds s addr len bs inside length holds, ← toNat_sumMod256, BitVec.ofNat_toNat,
    BitVec.setWidth_eq]
  rfl

/-- Settles O17. -/
theorem hisumWritesTheHighByte : Obligations.HisumWritesTheHighByte := by
  refine ⟨⟨rfl, rfl⟩, fun s addr len bs inside length holds => ?_, readsRange_hisum.of_empty,
    readsRange_hisum.of_outside, readsRange_hisum.of_gap⟩
  rw [readsRange_hisum.of_holds s addr len bs inside length holds, ← toNat_highByteOfSum, BitVec.ofNat_toNat,
    BitVec.setWidth_eq]
  rfl

/-- Settles O18. -/
theorem ckpairWritesTheTrailer : Obligations.CkpairWritesTheTrailer := by
  refine ⟨⟨rfl, rfl⟩, fun s addr len X inside length holds => ?_, readsRange_ckpair.of_empty,
    readsRange_ckpair.of_outside, readsRange_ckpair.of_gap⟩
  rw [readsRange_ckpair.of_holds s addr len X inside length holds, checksum2_inclusive]
  rfl

end Sys2Proof.Machine
end

section
/-! The packet framer: the three fixed packets and Brightness (R100 to R109). -/

namespace Sys2Proof.Machine

/-! ### The fixed packets -/

/-- Settles O19: each of the three commands is one emission of MAGIC and its tail. -/
theorem fixedPacketsAreEmitted : Obligations.FixedPacketsAreEmitted := by
  refine ⟨⟨rfl, rfl⟩, ⟨rfl, rfl⟩, ⟨rfl, rfl⟩, fun s room => ?_⟩
  have emitted (f : Frame) : emit [f] s = EmitEnd s [f] := emit_of_room room
  exact ⟨⟨Config.resetTail, rfl, Config.length_resetTail, emitted resetPkt⟩,
    ⟨Config.readyTail, rfl, Config.length_readyTail, emitted readyPkt⟩,
    ⟨Config.ucTail, rfl, Config.length_ucTail, emitted ucPkt⟩⟩

/-! ### Brightness -/

/-- Byte 14 of the Brightness packet as a number (R107). -/
theorem brightPkt_eq (level : Byte) :
    brightPkt level = [0xAA, 0x55, 0xFF, 0xFF, 0x0A, 0x00, 0x04, 0x00, 0xC1, 0x02, 0x06, 0x02, 0x00, level,
      BitVec.ofNat 8 ((0xD6 + level.toNat) % 256), 0x03] := by
  have byte14 : 0xD6 + level = BitVec.ofNat 8 ((0xD6 + level.toNat) % 256) := BitVec.eq_of_toNat_eq (by simp)
  rw [← byte14]
  rfl

theorem execPktBright_of_le {level : Byte} (h : level.toNat ≤ 15) (s : State) :
    execPktBright level s = emit [brightPkt level] s :=
  if_neg (Nat.not_lt.2 h)

theorem execPktBright_of_gt {level : Byte} (h : 15 < level.toNat) (s : State) :
    execPktBright level s = raise .invalidParameter s :=
  if_pos h

/-- Settles O20: the level is checked before anything is emitted. -/
theorem brightnessPacketIsLiteral : Obligations.BrightnessPacketIsLiteral := by
  refine ⟨⟨rfl, rfl⟩, fun s level => ⟨fun accepted room => ?_, fun refused => execPktBright_of_gt refused s⟩⟩
  rw [← brightPkt_eq]
  exact (execPktBright_of_le accepted s).trans (emit_of_room room)

/-- The sum of the bytes before the two that look like a trailer (R109). -/
theorem byteSum_take_brightPkt (level : Byte) : byteSum ((brightPkt level).take 14) = 0x3D6 + level.toNat :=
  calc
    _ = byteSum (Config.magic ++ [0x0A, 0x00, 0x04, 0x00, 0xC1, 0x02, 0x06, 0x02, 0x00]) + byteSum [level] :=
      byteSum_append _ _
    _ = 0x3D6 + level.toNat := congrArg₂ (· + ·) (by decide) (Nat.add_zero _)

/-- Settles O21: the sum is 0x3D6 + level, at most 0x3E5; counting its low byte, at least 0xD6, again carries it past
0x400. -/
theorem brightnessChecksumCoincidence : Obligations.BrightnessChecksumCoincidence := by
  intro level accepted
  have sum := byteSum_take_brightPkt level
  have c1 : sumMod256 ((brightPkt level).take 14) = BitVec.ofNat 8 ((0xD6 + level.toNat) % 256) := by
    apply BitVec.eq_of_toNat_eq
    rw [toNat_sumMod256, sum, BitVec.toNat_ofNat]
    omega
  have high : highByteOfSum ((brightPkt level).take 14) = 0x03 := by
    have carried : (0x3D6 + level.toNat) / 256 = 3 := by omega
    rw [highByteOfSum, sum, carried]
    rfl
  have c2 : checksum2 .inclusive ((brightPkt level).take 14) = 0x04 := by
    have carried : (0x3D6 + level.toNat + (0x3D6 + level.toNat) % 256) / 256 = 4 := by omega
    rw [checksum2_inclusive, sum, carried]
    rfl
  refine ⟨?_, ?_, c2⟩
  · rw [c1, brightPkt_eq]
    rfl
  · rw [high]
    rfl

end Sys2Proof.Machine
end

section
/-! The chunk codec's bytes: chunk count, windows and chunk packets (R120 to R128, R132, R133). -/

namespace Sys2Proof.Machine

/-! ### Chunk count and windows -/

/-- The model's chunk count is the ceiling of R120. -/
theorem chunkCount_eq_chunksOf (L : Nat) : chunkCount L = chunksOf L := by
  rw [chunkCount, chunksOf, Config.chunkW, Nat.add_sub_assoc (by decide)]

/-- The accepted blob lengths are those of at most 255 chunks (R129). -/
theorem chunksOf_le_iff {L : Nat} : chunksOf L ≤ 255 ↔ L ≤ 49980 := by
  unfold chunksOf
  omega

/-- The first `k` windows are the first `196 k` bytes of the blob, and zero bytes from its end on (R121). -/
theorem flatMap_window_range (blob : List Byte) (k : Nat) :
    (List.range k).flatMap (window blob) =
      blob.take (196 * k) ++ List.replicate (196 * k - blob.length) 0x00 := by
  induction k with
  | zero => simp
  | succ k ih =>
    have last : window blob k = (blob.drop (196 * k)).take 196 ++
        List.replicate (196 - ((blob.drop (196 * k)).take 196).length) 0x00 := rfl
    rw [List.range_succ, List.flatMap_append, ih, List.flatMap_singleton, last, Nat.mul_succ, List.take_add]
    by_cases ended : blob.length ≤ 196 * k
    · rw [List.drop_eq_nil_of_le ended]
      simp only [List.take_nil, List.length_nil, List.nil_append, List.append_nil, List.append_assoc,
        List.replicate_append_replicate]
      congr 2
      omega
    · have unpadded : 196 * k - blob.length = 0 := by omega
      have padding : 196 - ((blob.drop (196 * k)).take 196).length = 196 * k + 196 - blob.length := by
        rw [List.length_take, List.length_drop]
        omega
      rw [unpadded, padding, List.replicate_zero, List.append_nil, List.append_assoc]

/-- Settles O22: all n windows together reach past the blob's end. -/
theorem windowsAreTheZeroPaddedBlob : Obligations.WindowsAreTheZeroPaddedBlob := by
  intro blob nonempty
  have length := List.length_pos_iff.2 nonempty
  have covered : blob.length ≤ 196 * chunkCount blob.length := by
    rw [chunkCount_eq_chunksOf, chunksOf]
    omega
  refine ⟨?_, covered, fun i _ => length_window blob i, ?_⟩
  · rw [chunkCount_eq_chunksOf, chunksOf]
    omega
  · rw [flatMap_window_range, List.take_of_length_le covered]

/-! ### Chunk packets -/

theorem withTrailer_eq_dualChecked (X : List Byte) : withTrailer X = dualChecked X := by
  rw [dualChecked, ← checksum2_inclusive]
  rfl

theorem length_chunkHeader (i n : Nat) : (chunkHeader i n).length = 35 + Config.pliW := by
  simp only [chunkHeader, le24, Config.magic, Config.length_chunkConstTail, Config.length_chunkPli, List.length_append,
    List.length_cons, List.length_nil]

/-- An index that fits one byte is followed by two zero bytes (R124). -/
theorem le24_of_lt {i : Nat} (h : i < 256) : le24 i = [BitVec.ofNat 8 i, 0x00, 0x00] := by
  rw [le24, Nat.div_eq_of_lt h, Nat.div_eq_of_lt (Nat.lt_trans h (by decide))]
  rfl

/-- The packet of a window, in the layout L0 written out (R122, R127). -/
theorem chunkPkt_eq_dualChecked {i : Nat} (h : i < 256) (n : Nat) (covered : List Byte) :
    chunkPkt (padWindow covered) i n = dualChecked (chunkBytes i n covered) := by
  rw [chunkPkt, withTrailer_eq_dualChecked, chunkHeader, le24_of_lt h, padWindow, ← List.append_assoc]
  rfl

/-- Bytes 0 to 27 of a chunk packet, the same in every chunk (R122, R123). -/
def chunkPrefix : List Byte :=
  Config.magic ++ Config.chunkConstTail ++ [BitVec.ofNat 8 (Config.chunkW + Config.chunkLenAdd)]

theorem length_chunkPrefix : chunkPrefix.length = 28 := by
  simp [chunkPrefix, Config.magic, Config.length_chunkConstTail]

/-- The per-chunk fields stand between the bytes that are the same in every chunk (R122). -/
theorem chunkHeader_eq {i : Nat} (h : i < 256) (n : Nat) :
    chunkHeader i n = chunkPrefix ++
      ([BitVec.ofNat 8 i, 0x00, 0x00, BitVec.ofNat 8 i, 0x00, 0x00, BitVec.ofNat 8 n] ++ Config.chunkPli) := by
  rw [chunkHeader, le24_of_lt h]
  simp only [chunkPrefix, List.append_assoc, List.cons_append, List.nil_append]

/-- Bytes 28 to 34 are the two index copies and the total (R122). -/
theorem chunkPkt_fields {i : Nat} (h : i < 256) (n : Nat) (w : List Byte) :
    ((chunkPkt w i n).drop 28).take 7 =
      [BitVec.ofNat 8 i, 0x00, 0x00, BitVec.ofNat 8 i, 0x00, 0x00, BitVec.ofNat 8 n] := by
  rw [chunkPkt, withTrailer, chunkHeader_eq h, List.append_assoc, List.append_assoc, List.drop_left' length_chunkPrefix]
  rfl

/-- Settles O25: the header's length says where the payload begins, and the packet's where the trailer does. -/
theorem chunkPacketLengthAndSelfCheck : Obligations.ChunkPacketLengthAndSelfCheck := by
  intro blob i n _
  have payload := length_window blob i
  have header := length_chunkHeader i n
  have before : (chunkHeader i n ++ window blob i).length = 231 + Config.pliW := by
    rw [List.length_append, header, payload]
    omega
  refine ⟨(isPacket_chunkPkt (op := .chunk) i n payload rfl).2, ?_, ?_⟩
  · rw [chunkPkt, withTrailer, List.append_assoc, List.drop_left' header, List.take_left' payload]
  · rw [chunkPkt, withTrailer, List.take_left' before, List.drop_left' before]

end Sys2Proof.Machine
end

section
/-! CHUNK and UPLOAD_SEQ: the checks they share, their errors and what they emit (R129 to R131, R134). -/

namespace Sys2Proof.Machine

/-! ### The checks before any packet is built -/

/-- Range and transfer validity, as CHUNK and UPLOAD_SEQ check them first (R129). -/
structure AcceptedTransfer (a n : Nat) : Prop where
  /-- the blob lies in IBUF (R42) -/
  inside : a + n ≤ 65536
  /-- the blob is not empty -/
  nonempty : 1 ≤ n
  /-- at most 255 chunks -/
  few : n ≤ 49980

section
variable {a n : Nat} {s : State} {use : Outcome}

theorem transfer_of_outside (outside : 65536 < a + n) :
    withRange a n s (withTransfer n s use) = raise .invalidParameter s := withRange_of_gt outside

theorem transfer_of_empty (inside : a + n ≤ 65536) (empty : n = 0) :
    withRange a n s (withTransfer n s use) = raise .emptyPayload s :=
  (withRange_of_le inside).trans (if_pos empty)

theorem transfer_of_many (inside : a + n ≤ 65536) (many : 49980 < n) :
    withRange a n s (withTransfer n s use) = raise .tooManyChunks s := by
  rw [withRange_of_le inside, withTransfer, if_neg (by omega), if_pos]
  exact Nat.lt_of_not_le fun few => absurd (chunksOf_le_iff.1 few) (by omega)

theorem transfer_of_accepted (accepted : AcceptedTransfer a n) :
    withRange a n s (withTransfer n s use) = use := by
  obtain ⟨inside, nonempty, few⟩ := accepted
  rw [withRange_of_le inside, withTransfer, if_neg (by omega), if_neg]
  exact Nat.not_lt.2 (chunksOf_le_iff.2 few)

end

/-- The checks look at the operands only: they raise one error from every state, or let the command go on. -/
theorem transfer_cases (a n : Nat) :
    (∃ e, ∀ (s : State) (use : Outcome), withRange a n s (withTransfer n s use) = raise e s) ∨ AcceptedTransfer a n := by
  by_cases inside : a + n ≤ 65536
  · by_cases empty : n = 0
    · exact .inl ⟨_, fun _ _ => transfer_of_empty inside empty⟩
    · by_cases few : n ≤ 49980
      · exact .inr ⟨inside, Nat.pos_of_ne_zero empty, few⟩
      · exact .inl ⟨_, fun _ _ => transfer_of_many inside (Nat.lt_of_not_le few)⟩
  · exact .inl ⟨_, fun _ _ => transfer_of_outside (Nat.lt_of_not_le inside)⟩

/-! ### CHUNK -/

section
variable {addr len index : Half}

theorem exec_chunk_of_index (accepted : AcceptedTransfer addr.toNat len.toNat)
    (beyond : chunksOf len.toNat ≤ index.toNat) (s : State) :
    exec (.chunk addr len index) s = raise .invalidParameter s :=
  (transfer_of_accepted accepted).trans (if_pos beyond)

/-- Past its checks CHUNK reads its window and emits its packet (R130). -/
theorem exec_chunk_of_accepted (accepted : AcceptedTransfer addr.toNat len.toNat)
    (known : index.toNat < chunksOf len.toNat) (s : State) :
    exec (.chunk addr len index) s =
      withBytes (addr.toNat + 196 * index.toNat) (min 196 (len.toNat - 196 * index.toNat)) s
        fun bs => emit [chunkPkt (padWindow bs) index.toNat (chunksOf len.toNat)] s :=
  (transfer_of_accepted accepted).trans (if_neg (Nat.not_le.2 known))

/-- CHUNK with its window written and a slot free. -/
theorem exec_chunk_of_holds {s : State} {covered : List Byte} (accepted : AcceptedTransfer addr.toNat len.toNat)
    (known : index.toNat < chunksOf len.toNat) (room : Room 1 s)
    (length : covered.length = min 196 (len.toNat - 196 * index.toNat))
    (holds : IbufHolds s (addr.toNat + 196 * index.toNat) covered) :
    exec (.chunk addr len index) s =
      EmitEnd s [chunkPkt (padWindow covered) index.toNat (chunksOf len.toNat)] := by
  rw [exec_chunk_of_accepted accepted known, withBytes_of_read length (length ▸ holds)]
  exact emit_of_room room

end

/-- CHUNK raises one error whatever the state, or does nothing but read its window and emit one frame. -/
theorem exec_chunk_cases (addr len index : Half) :
    (∃ e, ∀ s, exec (.chunk addr len index) s = raise e s) ∨
    ∃ packet : List Byte → Frame, ∀ s, exec (.chunk addr len index) s =
      withBytes (addr.toNat + 196 * index.toNat) (min 196 (len.toNat - 196 * index.toNat)) s
        fun bs => emit [packet bs] s := by
  obtain ⟨e, raised⟩ | accepted := transfer_cases addr.toNat len.toNat
  · exact .inl ⟨e, fun s => raised s _⟩
  · obtain known | beyond := Nat.lt_or_ge index.toNat (chunksOf len.toNat)
    · exact .inr ⟨_, exec_chunk_of_accepted accepted known⟩
    · exact .inl ⟨_, exec_chunk_of_index accepted beyond⟩

/-- Settles O23: past the checks it is one emission of the window's packet. -/
theorem chunkEmitsItsWindow : Obligations.ChunkEmitsItsWindow := by
  intro s addr len index covered room inside nonempty few known length holds
  rw [exec_chunk_of_holds ⟨inside, nonempty, chunksOf_le_iff.1 few⟩ known room length holds,
    chunkPkt_eq_dualChecked (by omega)]

/-- Settles O24: the checks in their order, and then the read. -/
theorem chunkErrorsInOrder : Obligations.ChunkErrorsInOrder := by
  intro s addr len index
  refine ⟨transfer_of_outside, transfer_of_empty, transfer_of_many, fun inside nonempty few beyond => ?_,
    fun inside nonempty few known gap => ?_⟩
  · exact exec_chunk_of_index ⟨inside, nonempty, few⟩ beyond s
  · rw [exec_chunk_of_accepted ⟨inside, nonempty, few⟩ known, withBytes_of_gap gap]

/-- Emission neither reads nor writes IBUF. -/
theorem emit_withIbuf {frames : List Frame} {s t : State} (m : Memory) (h : emit frames s = .next t) :
    emit frames { s with ibuf := m } = .next { t with ibuf := m } := by
  by_cases room : s.outq.length + frames.length ≤ Config.outqCapacity
  · cases (emit_of_room room).symm.trans h
    exact emit_of_room room
  · cases (emit_of_no_room (Nat.lt_of_not_le room)).symm.trans h
    exact emit_of_no_room (Nat.lt_of_not_le room)

/-- Settles O29: the checks look at the operands only, and what is read is the window. -/
theorem chunkDependsOnlyOnItsWindow : Obligations.ChunkDependsOnlyOnItsWindow := by
  intro s t m addr len index same ran
  obtain ⟨e, raised⟩ | ⟨packet, reads⟩ := exec_chunk_cases addr len index
  · cases (raised s).symm.trans ran
    exact raised _
  · rw [reads] at ran ⊢
    obtain faulted | ⟨bs, length, window, emitted⟩ := withBytes_cases _ _ s fun bs => emit [packet bs] s
    · cases faulted.symm.trans ran
    · rw [withBytes_of_read length fun k hk => (same k hk).trans (window k hk)]
      exact emit_withIbuf m (emitted.symm.trans ran)

/-! ### UPLOAD_SEQ -/

/-- Past its checks UPLOAD_SEQ reads the blob and emits its packet list (R131). -/
theorem exec_uploadSeq_of_accepted {addr len : Half} (accepted : AcceptedTransfer addr.toNat len.toNat) (s : State) :
    exec (.uploadSeq addr len) s =
      withBytes addr.toNat len.toNat s fun blob => emit (uploadFrames blob) s :=
  transfer_of_accepted accepted

theorem length_uploadFrames (blob : List Byte) : (uploadFrames blob).length = chunksOf blob.length + 4 := by
  simp only [uploadFrames, chunkCount_eq_chunksOf, List.length_append, List.length_map, List.length_range,
    List.length_cons, List.length_nil]
  omega

/-- Frame `i + 2` of an upload is the packet of window `i` (R131). -/
theorem getElem?_uploadFrames {blob : List Byte} {i : Nat} (h : i < chunksOf blob.length) :
    (uploadFrames blob)[i + 2]? = some (chunkPkt (window blob i) i (chunksOf blob.length)) := by
  have inChunks : i < ((List.range (chunksOf blob.length)).map fun i =>
      chunkPkt (window blob i) i (chunksOf blob.length)).length := by
    rwa [List.length_map, List.length_range]
  rw [uploadFrames, chunkCount_eq_chunksOf, List.append_assoc]
  refine (List.getElem?_append_left inChunks).trans ?_
  rw [List.getElem?_map, List.getElem?_range h]
  rfl

/-- Settles O26: the whole blob is read, and each chunk packet has the layout L0. -/
theorem uploadSeqEmitsTheWholeList : Obligations.UploadSeqEmitsTheWholeList := by
  intro s addr len blob inside nonempty few length holds room
  have packets : (List.range (chunksOf len.toNat)).map (fun i => chunkPkt (window blob i) i (chunksOf len.toNat)) =
      (List.range (chunksOf len.toNat)).map fun i =>
        dualChecked (chunkBytes i (chunksOf len.toNat) ((blob.drop (196 * i)).take 196)) := by
    refine List.map_congr_left fun i hi => chunkPkt_eq_dualChecked ?_ _ _
    have := List.mem_range.1 hi
    omega
  rw [exec_uploadSeq_of_accepted ⟨inside, nonempty, chunksOf_le_iff.1 few⟩, withBytes_of_read length (length ▸ holds),
    emit_of_room (by rwa [length_uploadFrames, length]), ← packets, ← length]
  rfl

/-- Settles O27: the checks in their order, and then the read. -/
theorem uploadSeqErrorsInOrder : Obligations.UploadSeqErrorsInOrder := by
  intro s addr len
  refine ⟨transfer_of_outside, transfer_of_empty, transfer_of_many, fun inside nonempty few gap => ?_⟩
  rw [exec_uploadSeq_of_accepted ⟨inside, nonempty, few⟩, withBytes_of_gap gap]

/-! ### An upload against its CHUNK commands -/

/-- A window of a blob that stands in IBUF stands there too. -/
theorem ibufHolds_window {s : State} {a : Nat} {blob : List Byte} (holds : IbufHolds s a blob) (j w : Nat) :
    IbufHolds s (a + j) ((blob.drop j).take w) := by
  intro k hk
  rw [List.length_take, List.length_drop] at hk
  rw [Nat.add_assoc, holds (j + k) (by omega), List.getElem?_take_of_lt (by omega), List.getElem?_drop]

theorem code_ne_zero (e : CmdError) : e.code ≠ 0x00 := by cases e <;> decide

/-- An upload that completes without error has passed its checks, read its blob and found room for every frame. -/
theorem uploadSeq_completed {s t : State} {addr len : Half} (pending : s.pending = true)
    (ran : exec (.uploadSeq addr len) s = .next t) (ended : t.pending = false) (ok : t.err = 0x00) :
    AcceptedTransfer addr.toNat len.toNat ∧ ∃ blob : List Byte, blob.length = len.toNat ∧
      IbufHolds s addr.toNat blob ∧ Room (chunksOf len.toNat + 4) s ∧ t.outq = s.outq ++ uploadFrames blob := by
  obtain ⟨e, raised⟩ | accepted := transfer_cases addr.toNat len.toNat
  · cases (raised s _).symm.trans ran
    exact absurd ok (code_ne_zero e)
  · rw [exec_uploadSeq_of_accepted accepted] at ran
    obtain faulted | ⟨blob, length, reads, emitted⟩ :=
      withBytes_cases addr.toNat len.toNat s fun blob => emit (uploadFrames blob) s
    · cases faulted.symm.trans ran
    · have count : (uploadFrames blob).length = chunksOf len.toNat + 4 := length ▸ length_uploadFrames blob
      rw [emitted] at ran
      by_cases room : Room (chunksOf len.toNat + 4) s
      · cases (emit_of_room (count ▸ room)).symm.trans ran
        exact ⟨accepted, blob, length, fun k hk => reads k (length ▸ hk), room, rfl⟩
      · cases (emit_of_no_room (by rw [count]; exact Nat.lt_of_not_le room)).symm.trans ran
        exact absurd pending (by simp [ended])

/-- Settles O28: both commands build the packet of the same window from the same bytes. -/
theorem uploadChunksAreTheChunkCommands : Obligations.UploadChunksAreTheChunkCommands := by
  intro s t addr len pending ran ended ok
  obtain ⟨accepted, blob, length, holds, room, queue⟩ := uploadSeq_completed pending ran ended ok
  refine ⟨uploadFrames blob, queue, length ▸ length_uploadFrames blob, fun i known => ?_⟩
  have few := chunksOf_le_iff.2 accepted.few
  refine ⟨chunkPkt (window blob i.toNat) i.toNat (chunksOf len.toNat), ?_, chunkPkt_fields (by omega) _ _, ?_⟩
  · rw [← length] at known ⊢
    exact getElem?_uploadFrames known
  · refine exec_chunk_of_holds accepted known ?_ ?_ (ibufHolds_window holds _ 196)
    · exact Nat.le_trans (Nat.add_le_add_left (by omega) _) room
    · rw [List.length_take, List.length_drop, length]
      rfl

end Sys2Proof.Machine
end

section
/-! The variable-length length field: VarLen's bytes and the command VARLEN (R140, R141). -/

namespace Sys2Proof.Machine

/-! ### VarLen's bytes -/

theorem toNat_varLenLast (group : Nat) : (varLenLast group).toNat = group % 128 := by
  rw [varLenLast, BitVec.toNat_ofNat]
  omega

theorem varLenMore_eq (group : Nat) : varLenMore group = BitVec.ofNat 8 (128 + group % 128) := by
  have sum : 128 + group % 128 = 128 ||| group % 128 :=
    Nat.two_pow_add_eq_or_of_lt (i := 7) (Nat.mod_lt _ (by decide)) 1
  rw [sum, BitVec.ofNat_or]
  rfl

theorem toNat_varLenMore (group : Nat) : (varLenMore group).toNat = 128 + group % 128 := by
  rw [varLenMore_eq, BitVec.toNat_ofNat]
  omega

section
variable {v : Nat}

theorem varLen_of_one (h : v < 128) : varLen v = [varLenLast v] := if_pos h

theorem varLen_of_two (h : 128 ≤ v) (h' : v < 2 ^ 14) : varLen v = [varLenMore v, varLenLast (v / 128)] :=
  (if_neg (Nat.not_lt.2 h)).trans (if_pos h')

theorem varLen_of_three (h : 2 ^ 14 ≤ v) :
    varLen v = [varLenMore v, varLenMore (v / 128), varLenLast (v / 2 ^ 14)] :=
  (if_neg (by omega)).trans (if_neg (Nat.not_lt.2 h))

/-- The last group is written as it is when it has 7 bits. -/
theorem varLenLast_of_lt (h : v < 128) : varLenLast v = BitVec.ofNat 8 v := by rw [varLenLast, Nat.mod_eq_of_lt h]

end

/-! ### VARLEN -/

theorem exec_varlen_of_lt {v : Word24} (h : v.toNat < 2 ^ 21) (s : State) :
    exec (.varlen v) s = SuccessEnd (s.withVarLen v.toNat) := if_neg (Nat.not_le.2 h)

/-- Settles O30: one case for each length of the form. -/
theorem varlenWritesTheShortestForm : Obligations.VarlenWritesTheShortestForm := by
  refine ⟨⟨rfl, rfl⟩, fun s v => ⟨fun one => ?_, fun two two' => ?_, fun three three' => ?_, fun wide => if_pos wide⟩⟩
  · rw [exec_varlen_of_lt (by omega), State.withVarLen, varLen_of_one one, varLenLast_of_lt one]
    rfl
  · rw [exec_varlen_of_lt (by omega), State.withVarLen, varLen_of_two two two', varLenLast_of_lt (by omega),
      varLenMore_eq]
    rfl
  · rw [exec_varlen_of_lt three', State.withVarLen, varLen_of_three three, varLenLast_of_lt (by omega),
      varLenMore_eq, varLenMore_eq]
    rfl

/-! ### VarLen as a continuation code -/

/-- Bytes of 128 and above, then one below 128: the high bit is set on all but the last. -/
theorem high_bit_iff_not_last {more : List Byte} {last : Byte} (high : ∀ b, b ∈ more → 128 ≤ b.toNat)
    (low : last.toNat < 128) (k : Nat) (b : Byte) (at_k : (more ++ [last])[k]? = some b) :
    128 ≤ b.toNat ↔ k + 1 < (more ++ [last]).length := by
  rw [List.length_append, List.length_singleton]
  by_cases inMore : k < more.length
  · rw [List.getElem?_append_left inMore] at at_k
    exact iff_of_true (high b (List.mem_of_getElem? at_k)) (by omega)
  · rw [List.getElem?_append_right (by omega)] at at_k
    obtain rfl := List.mem_singleton.1 (List.mem_of_getElem? at_k)
    exact iff_of_false (by omega) (by omega)

/-- VarLen is some groups with the continuation bit and a last one without it, at most three in all; more than one group
is used only where the last is not 0 (R140). -/
theorem varLen_eq_append {v : Nat} (h : v < 2 ^ 21) : ∃ (more : List Byte) (last : Byte),
    varLen v = more ++ [last] ∧ more.length ≤ 2 ∧ (∀ b, b ∈ more → 128 ≤ b.toNat) ∧ last.toNat < 128 ∧
      (last = 0x00 → more = []) := by
  have high (group : Nat) : 128 ≤ (varLenMore group).toNat := by
    rw [toNat_varLenMore]
    omega
  have low (group : Nat) : (varLenLast group).toNat < 128 := by
    rw [toNat_varLenLast]
    omega
  have nonzero {group : Nat} (pos : 0 < group) (small : group < 128) : varLenLast group ≠ 0x00 := fun zero => by
    have := congrArg BitVec.toNat zero
    rw [toNat_varLenLast, Nat.mod_eq_of_lt small] at this
    exact absurd this (Nat.ne_of_gt pos)
  rcases Nat.lt_or_ge v 128 with one | two
  · exact ⟨[], _, varLen_of_one one, by simp, by simp, low v, fun _ => rfl⟩
  · rcases Nat.lt_or_ge v (2 ^ 14) with two' | three
    · exact ⟨[_], _, varLen_of_two two two', by simp, by simp [high], low _,
        fun zero => absurd zero (nonzero (by omega) (by omega))⟩
    · exact ⟨[_, _], _, varLen_of_three three, by simp, by simp [high], low _,
        fun zero => absurd zero (nonzero (by omega) (by omega))⟩

/-- The 7-bit groups give the value back (R140). -/
theorem sum_groups_varLen {v : Nat} (h : v < 2 ^ 21) :
    ((varLen v).mapIdx (fun k b => b.toNat % 128 * 128 ^ k)).sum = v := by
  rcases Nat.lt_or_ge v 128 with one | two
  · simp [varLen_of_one one, toNat_varLenLast, Nat.mod_eq_of_lt one]
  · rcases Nat.lt_or_ge v (2 ^ 14) with two' | three
    · rw [varLen_of_two two two']
      change (varLenMore v).toNat % 128 * 128 ^ 0 + ((varLenLast (v / 128)).toNat % 128 * 128 ^ 1 + 0) = v
      rw [toNat_varLenMore, toNat_varLenLast]
      omega
    · rw [varLen_of_three three]
      change (varLenMore v).toNat % 128 * 128 ^ 0 + ((varLenMore (v / 128)).toNat % 128 * 128 ^ 1 +
        ((varLenLast (v / 2 ^ 14)).toNat % 128 * 128 ^ 2 + 0)) = v
      rw [toNat_varLenMore, toNat_varLenMore, toNat_varLenLast]
      omega

/-- Settles O31. -/
theorem varLenIsAContinuationCode : Obligations.VarLenIsAContinuationCode := by
  intro v small
  obtain ⟨more, last, form, short, high, low, shortest⟩ := varLen_eq_append small
  refine ⟨sum_groups_varLen small, ?_⟩
  rw [form]
  refine ⟨?_, high_bit_iff_not_last high low, fun zero => ?_⟩
  · rw [List.length_append, List.length_singleton]
    omega
  · rw [List.getLast?_append, List.getLast?_singleton, Option.some_or, Option.some_inj] at zero
    rw [shortest zero]
    rfl

end Sys2Proof.Machine
end

section
/-! The draw envelope, and FILLRECT (R142 to R147). -/

namespace Sys2Proof.Machine

theorem bytesLE16_eq_le16 (v : Half) : bytesLE16 v = le16 v.toNat := bytesLE16_eq v

/-- The draw packet, in the envelope written out (R142). -/
theorem drawPkt_eq_drawFrame (seq : Half) (P : List Byte) : drawPkt seq P = drawFrame seq P := by
  rw [drawPkt, withTrailer_eq_dualChecked, drawBody, bytesLE16_eq_le16]
  rfl

section
variable {seq : Half} {r g b : Byte} {x0 y0 x1 y1 : Half} {s : State}

theorem exec_fillrect_of_order (columns : x0.toNat ≤ x1.toNat) (rows : y0.toNat ≤ y1.toNat) :
    exec (.fillrect seq r g b x0 y0 x1 y1) s = emit [drawFrame seq (fillPayload r g b x0 y0 x1 y1)] s := by
  rw [← drawPkt_eq_drawFrame]
  exact if_neg (by omega)

theorem exec_fillrect_of_disorder (disorder : x1.toNat < x0.toNat ∨ y1.toNat < y0.toNat) :
    exec (.fillrect seq r g b x0 y0 x1 y1) s = raise .invalidParameter s := if_pos disorder

end

/-- Settles O32: the payload has 14 bytes, so the length byte is 20. -/
theorem fillrectEmitsItsPacket : Obligations.FillrectEmitsItsPacket := by
  refine ⟨⟨rfl, rfl⟩, fun s seq r g b x0 y0 x1 y1 => ⟨fun columns rows room => ?_, exec_fillrect_of_disorder⟩⟩
  rw [exec_fillrect_of_order columns rows, fillPayload, bytesLE16_eq_le16, bytesLE16_eq_le16,
    bytesLE16_eq_le16, bytesLE16_eq_le16]
  exact emit_of_room room

end Sys2Proof.Machine
end

section
/-! Bit packing: where each pixel stands among the packed bytes (R148). -/

namespace Sys2Proof.Machine

/-- A byte of a concatenation of rows of one length. -/
theorem getElem?_flatMap_range {n : Nat} {row : Nat → List Byte} (length : ∀ r, (row r).length = n) {h r j : Nat}
    (hr : r < h) (hj : j < n) : ((List.range h).flatMap row)[r * n + j]? = (row r)[j]? := by
  induction h with
  | zero => omega
  | succ h ih =>
    have before : ((List.range h).flatMap row).length = h * n := by simp [List.length_flatMap, length]
    rw [List.range_succ, List.flatMap_append, List.flatMap_singleton]
    obtain inside | rfl := Nat.lt_succ_iff_lt_or_eq.1 hr
    · have below : r * n + j < h * n := by
        have := Nat.mul_le_mul_right n (Nat.succ_le_of_lt inside)
        rw [Nat.succ_mul] at this
        omega
      rw [List.getElem?_append_left (before ▸ below), ih inside]
    · rw [List.getElem?_append_right (by omega), before, Nat.add_sub_cancel_left]

theorem length_packRow (pix : Pix) (w r : Nat) : (packRow pix w r).length = bytesPerRow w := by
  rw [packRow, List.length_map, List.length_range]

theorem getElem?_pack (pix : Pix) {w h r j : Nat} (hr : r < h) (hj : j < bytesPerRow w) :
    (pack pix w h)[r * bytesPerRow w + j]? = some (packByte pix w r j) := by
  rw [pack, getElem?_flatMap_range (length_packRow pix w) hr hj, packRow, List.getElem?_map, List.getElem?_range hj]
  rfl

/-- A bit of an accumulated or of bytes is set when it is set in one of them. -/
theorem getLsbD_foldl_or (bits : Nat → Byte) (i : Nat) (ks : List Nat) (acc : Byte) :
    (ks.foldl (fun acc k => acc ||| bits k) acc).getLsbD i = (acc.getLsbD i || ks.any fun k => (bits k).getLsbD i) := by
  induction ks generalizing acc with
  | nil => simp
  | cons k ks ih => rw [List.foldl_cons, ih, BitVec.getLsbD_or, List.any_cons, Bool.or_assoc]

/-- `0x80 >> k` has bit `7 − k` only. -/
theorem getLsbD_shiftRight_0x80 : ∀ k < 8, ∀ i < 8, ((0x80 : Byte) >>> k).getLsbD (7 - i) = decide (k = i) := by decide

theorem getLsbD_pixelBit (pix : Pix) (w r j : Nat) {k i : Nat} (hk : k < 8) (hi : i < 8) :
    (pixelBit pix w r (8 * j + k)).getLsbD (7 - i) =
      (decide (k = i) && (decide (8 * j + k < w) && pix r (8 * j + k))) := by
  have column : (8 * j + k) % 8 = k := by omega
  rw [pixelBit, column]
  split
  case isTrue set => rw [getLsbD_shiftRight_0x80 k hk i hi, decide_eq_true set.1, set.2, Bool.and_true, Bool.and_true]
  case isFalse clear =>
    have pixel : (decide (8 * j + k < w) && pix r (8 * j + k)) = false := by simpa using clear
    rw [pixel, Bool.and_false]
    exact BitVec.getLsbD_zero

/-- Bit `7 − i` of byte `j` of a row is the pixel in column `8j + i` (R148). -/
theorem getLsbD_packByte (pix : Pix) (w r j : Nat) {i : Nat} (hi : i < 8) :
    (packByte pix w r j).getLsbD (7 - i) = (decide (8 * j + i < w) && pix r (8 * j + i)) := by
  rw [packByte, getLsbD_foldl_or, Bool.eq_iff_iff]
  simp only [BitVec.ofNat_eq_ofNat, BitVec.getLsbD_zero, Bool.false_or, List.any_eq_true, List.mem_range]
  constructor
  · rintro ⟨k, hk, set⟩
    rw [getLsbD_pixelBit pix w r j hk hi, Bool.and_eq_true, decide_eq_true_eq] at set
    obtain ⟨rfl, pixel⟩ := set
    exact pixel
  · intro pixel
    exact ⟨i, hi, by rw [getLsbD_pixelBit pix w r j hi hi, pixel, decide_eq_true rfl, Bool.and_true]⟩

/-- Settles O33: column `c` is column `c mod 8` of byte `c div 8` of its row. -/
theorem packPlacesEachPixel : Obligations.PackPlacesEachPixel := by
  refine fun pix w h => ⟨length_pack pix w h, fun r c hr hc => ⟨_, getElem?_pack pix hr ?_, ?_⟩⟩
  · exact Nat.div_lt_of_lt_mul hc
  · rw [getLsbD_packByte pix w r (c / 8) (Nat.mod_lt c (by decide)), Nat.div_add_mod]

end Sys2Proof.Machine
end

section
/-! Bitmap payloads, and BITMAP (R143, R149, R150). -/

namespace Sys2Proof.Machine

/-! ### The payload -/

theorem length_bitmapBytes (r g b : Byte) (x0 y0 x1 y1 : Nat) (bits : List Byte) :
    (bitmapBytes r g b x0 y0 x1 y1 bits).length = 13 + varLenSize (13 + bits.length) + bits.length := by
  simp only [bitmapBytes, length_varLen, le16, List.length_append, List.length_cons, List.length_nil]
  omega

/-- Settles O36: the length field grows to two bytes from 115 packed bytes on, and the payload then has 15 bytes beside
them. -/
theorem bitmapPayloadLimit : Obligations.BitmapPayloadLimit := by
  intro r g b x0 y0 x1 y1 bits
  rw [length_bitmapBytes, length_varLen, varLenSize]
  refine ⟨?_, ?_, ?_⟩ <;> split_ifs <;> omega

theorem bitmapPayload_eq_bitmapBytes (r g b : Byte) (x0 y0 w h : Nat) (pix : Pix) :
    bitmapPayload r g b x0 y0 w h pix = bitmapBytes r g b x0 y0 (x0 + w - 1) (y0 + h - 1) (pack pix w h) := rfl

section
variable {seq : Half} {r g b : Byte} {x0 y0 w h : Nat} {pix : Pix} {s : State} {P : List Byte}

/-- A bitmap whose payload fits is emitted as one draw packet (R143). -/
theorem emitBitmap_of_fits (payload : P = bitmapBytes r g b x0 y0 (x0 + w - 1) (y0 + h - 1) (pack pix w h))
    (fits : P.length ≤ 249) (room : Room 1 s) : emitBitmap seq r g b x0 y0 w h pix s = EmitEnd s [drawFrame seq P] := by
  rw [payload, ← bitmapPayload_eq_bitmapBytes] at fits ⊢
  rw [length_bitmapPayload] at fits
  rw [← drawPkt_eq_drawFrame]
  exact (if_neg (Nat.not_lt.2 fits)).trans (emit_of_room room)

theorem emitBitmap_of_long (payload : P = bitmapBytes r g b x0 y0 (x0 + w - 1) (y0 + h - 1) (pack pix w h))
    (long : 249 < P.length) : emitBitmap seq r g b x0 y0 w h pix s = raise .invalidParameter s := by
  rw [payload, ← bitmapPayload_eq_bitmapBytes, length_bitmapPayload] at long
  exact if_pos long

end

/-! ### BITMAP's checks -/

/-- BITMAP's checks on its operands (R150). -/
structure AcceptedBitmap (x0 y0 w h addr : Nat) : Prop where
  /-- at least one column -/
  wide : 1 ≤ w
  /-- at least one row -/
  high : 1 ≤ h
  /-- the right edge is a coordinate -/
  right : x0 + w - 1 ≤ 65535
  /-- the bottom edge is a coordinate -/
  bottom : y0 + h - 1 ≤ 65535
  /-- the matrix lies in IBUF (R42) -/
  inside : addr + w * h ≤ 65536

theorem isPixelByte_iff {v : Byte} : isPixelByte v = true ↔ v = 0x00 ∨ v = 0x01 := by
  simp [isPixelByte]

section
variable {seq : Half} {r g b : Byte} {x0 y0 w h addr : Half} {s : State} {m : List Byte}

theorem exec_bitmap_of_rejected
    (rejected : ¬ AcceptedBitmap x0.toNat y0.toNat w.toNat h.toNat addr.toNat) :
    exec (.bitmap seq r g b x0 y0 w h addr) s = raise .invalidParameter s := by
  show execBitmap seq r g b x0 y0 w h addr s = _
  unfold execBitmap
  split
  case isTrue => rfl
  case isFalse nonempty =>
    split
    case isTrue => rfl
    case isFalse corners =>
      refine withRange_of_gt (Nat.lt_of_not_le fun inside => rejected ?_)
      exact ⟨by omega, by omega, by omega, by omega, inside⟩

/-- Past its checks BITMAP reads its matrix, and emits it if every byte is a pixel (R150). -/
theorem exec_bitmap_of_accepted
    (accepted : AcceptedBitmap x0.toNat y0.toNat w.toNat h.toNat addr.toNat) :
    exec (.bitmap seq r g b x0 y0 w h addr) s = withBytes addr.toNat (w.toNat * h.toNat) s fun m =>
      if m.all isPixelByte then emitBitmap seq r g b x0.toNat y0.toNat w.toNat h.toNat (matrixPix m w.toNat) s
      else raise .invalidParameter s := by
  obtain ⟨wide, high, right, bottom, inside⟩ := accepted
  show execBitmap seq r g b x0 y0 w h addr s = _
  rw [execBitmap, if_neg (by omega), if_neg (by omega), withRange_of_le inside]

theorem exec_bitmap_of_pixels (accepted : AcceptedBitmap x0.toNat y0.toNat w.toNat h.toNat addr.toNat)
    (length : m.length = w.toNat * h.toNat) (holds : IbufHolds s addr.toNat m)
    (pixels : ∀ v, v ∈ m → v = 0x00 ∨ v = 0x01) :
    exec (.bitmap seq r g b x0 y0 w h addr) s =
      emitBitmap seq r g b x0.toNat y0.toNat w.toNat h.toNat (matrixPix m w.toNat) s := by
  rw [exec_bitmap_of_accepted accepted, withBytes_of_read length (length ▸ holds)]
  exact if_pos (List.all_eq_true.2 fun v hv => isPixelByte_iff.2 (pixels v hv))

theorem exec_bitmap_of_no_pixel (accepted : AcceptedBitmap x0.toNat y0.toNat w.toNat h.toNat addr.toNat)
    (length : m.length = w.toNat * h.toNat) (holds : IbufHolds s addr.toNat m)
    (other : ∃ v, v ∈ m ∧ v ≠ 0x00 ∧ v ≠ 0x01) :
    exec (.bitmap seq r g b x0 y0 w h addr) s = raise .invalidParameter s := by
  rw [exec_bitmap_of_accepted accepted, withBytes_of_read length (length ▸ holds)]
  obtain ⟨v, hv, not0, not1⟩ := other
  exact if_neg fun all => (isPixelByte_iff.1 (List.all_eq_true.1 all v hv)).elim not0 not1

end

/-- A byte the matrix does not have is no set pixel. -/
theorem matrixPix_eq (m : List Byte) (w : Nat) :
    matrixPix m w = fun row col => m[row * w + col]? == some 0x01 := by
  funext row col
  rw [matrixPix, List.getD_eq_getElem?_getD]
  cases m[row * w + col]? <;> rfl

/-- Settles O34. -/
theorem bitmapEmitsItsPacket : Obligations.BitmapEmitsItsPacket := by
  intro s seq r g b x0 y0 w h addr m P wide high right bottom inside length holds pixels payload
  rw [exec_bitmap_of_pixels ⟨wide, high, right, bottom, inside⟩ length holds pixels]
  rw [← matrixPix_eq] at payload
  exact ⟨emitBitmap_of_fits payload, emitBitmap_of_long payload⟩

/-- Settles O35: the first three clauses each break one of the checks on the operands. -/
theorem bitmapErrorsInOrder : Obligations.BitmapErrorsInOrder := by
  intro s seq r g b x0 y0 w h addr
  refine ⟨fun empty => exec_bitmap_of_rejected fun ⟨wide, high, _, _, _⟩ => ?_,
    fun _ _ beyond => exec_bitmap_of_rejected fun ⟨_, _, right, bottom, _⟩ => ?_,
    fun outside => exec_bitmap_of_rejected fun accepted => absurd accepted.inside (Nat.not_le.2 outside),
    fun m wide high right bottom inside => exec_bitmap_of_no_pixel ⟨wide, high, right, bottom, inside⟩,
    fun wide high right bottom inside gap => ?_⟩
  · omega
  · omega
  · rw [exec_bitmap_of_accepted ⟨wide, high, right, bottom, inside⟩, withBytes_of_gap gap]

end Sys2Proof.Machine
end

section
/-! PIXELS: the points read, their tight bounding box, and what does not matter about them (R151, R152). -/

namespace Sys2Proof.Machine

/-! ### The bounding box -/

theorem leastOf_eq_min? (vs : List Nat) : leastOf vs = vs.min?.getD 0 := by
  induction vs with
  | nil => rfl
  | cons v vs ih =>
    cases vs with
    | nil => rfl
    | cons u vs =>
      rw [leastOf, ih, List.min?_cons (xs := u :: vs), List.min?_cons]
      · rfl
      · nofun

theorem greatestOf_eq_max? (vs : List Nat) : greatestOf vs = vs.max?.getD 0 := by
  induction vs with
  | nil => rfl
  | cons v vs ih =>
    cases vs with
    | nil => rfl
    | cons u vs =>
      rw [greatestOf, ih, List.max?_cons (xs := u :: vs), List.max?_cons]
      · rfl
      · nofun

section
variable {vs us : List Nat} {v : Nat}

theorem leastOf_eq (mem : v ∈ vs) (least : ∀ u, u ∈ vs → v ≤ u) : leastOf vs = v := by
  rw [leastOf_eq_min?, List.min?_eq_some_iff.2 ⟨mem, least⟩, Option.getD_some]

theorem greatestOf_eq (mem : v ∈ vs) (greatest : ∀ u, u ∈ vs → u ≤ v) : greatestOf vs = v := by
  rw [greatestOf_eq_max?, List.max?_eq_some_iff.2 ⟨mem, greatest⟩, Option.getD_some]

theorem leastOf_congr (same : ∀ u, u ∈ vs ↔ u ∈ us) : leastOf vs = leastOf us := by
  have least : vs.min? = us.min? := Option.ext fun u => by simp only [List.min?_eq_some_iff, same]
  rw [leastOf_eq_min?, leastOf_eq_min?, least]

theorem greatestOf_congr (same : ∀ u, u ∈ vs ↔ u ∈ us) : greatestOf vs = greatestOf us := by
  have greatest : vs.max? = us.max? := Option.ext fun u => by simp only [List.max?_eq_some_iff, same]
  rw [greatestOf_eq_max?, greatestOf_eq_max?, greatest]

end

theorem pointPix_eq (ps : List (Nat × Nat)) (x0 y0 : Nat) :
    pointPix ps x0 y0 = fun row col => decide ((x0 + col, y0 + row) ∈ ps) := by
  funext row col
  exact List.contains_eq_mem ..

section
variable {seq : Half} {r g b : Byte} {s : State} {ps qs : List (Nat × Nat)}

/-- Points are emitted as the bitmap of the box that is tight around them (R151). -/
theorem emitPoints_of_tight {x0 x1 y0 y1 : Nat} (inBox : ∀ p, p ∈ ps → x0 ≤ p.1 ∧ p.1 ≤ x1 ∧ y0 ≤ p.2 ∧ p.2 ≤ y1)
    (left : ∃ p, p ∈ ps ∧ p.1 = x0) (right : ∃ p, p ∈ ps ∧ p.1 = x1) (top : ∃ p, p ∈ ps ∧ p.2 = y0)
    (bottom : ∃ p, p ∈ ps ∧ p.2 = y1) :
    emitPoints seq r g b ps s = emitBitmap seq r g b x0 y0 (x1 - x0 + 1) (y1 - y0 + 1)
      (fun row col => decide ((x0 + col, y0 + row) ∈ ps)) s := by
  simp only [imp_and, forall_and] at inBox
  obtain ⟨x_ge, x_le, y_ge, y_le⟩ := inBox
  rw [emitPoints, leastOf_eq (List.mem_map.2 left) (List.forall_mem_map.2 x_ge),
    greatestOf_eq (List.mem_map.2 right) (List.forall_mem_map.2 x_le),
    leastOf_eq (List.mem_map.2 top) (List.forall_mem_map.2 y_ge),
    greatestOf_eq (List.mem_map.2 bottom) (List.forall_mem_map.2 y_le), pointPix_eq]

/-- Points matter as a set only (R151). -/
theorem emitPoints_congr (same : ∀ p, p ∈ ps ↔ p ∈ qs) : emitPoints seq r g b ps s = emitPoints seq r g b qs s := by
  have mapped (f : Nat × Nat → Nat) (v : Nat) : v ∈ ps.map f ↔ v ∈ qs.map f := by simp only [List.mem_map, same]
  have pix (x0 y0 : Nat) : pointPix ps x0 y0 = pointPix qs x0 y0 := by simp only [pointPix_eq, same]
  simp only [emitPoints, leastOf_congr (mapped _), greatestOf_congr (mapped _), pix]

end

/-! ### The points of a range of IBUF -/

/-- A point as it stands in IBUF (R152). -/
def pointBytes (p : Nat × Nat) : List Byte := le16 p.1 ++ le16 p.2

theorem length_flatMap_pointBytes (ps : List (Nat × Nat)) : (ps.flatMap pointBytes).length = 4 * ps.length := by
  simp [List.length_flatMap, pointBytes, le16, Nat.mul_comm]

theorem toNat_ofLE16_le16 {v : Nat} (h : v < 65536) :
    (ofLE16 (BitVec.ofNat 8 v) (BitVec.ofNat 8 (v / 256))).toNat = v := by
  rw [toNat_ofLE16, BitVec.toNat_ofNat, BitVec.toNat_ofNat]
  omega

/-- Points whose coordinates have 16 bits are read back from their bytes (R152). -/
theorem points_flatMap_pointBytes {ps : List (Nat × Nat)} (small : ∀ p, p ∈ ps → p.1 < 65536 ∧ p.2 < 65536) :
    points (ps.flatMap pointBytes) = ps := by
  induction ps with
  | nil => rfl
  | cons p ps ih =>
    obtain ⟨⟨x, y⟩, rest⟩ := List.forall_mem_cons.1 small
    rw [List.flatMap_cons, pointBytes, le16, le16]
    simp only [List.cons_append, List.nil_append, points, toNat_ofLE16_le16 x, toNat_ofLE16_le16 y, ih rest]

/-- Points that stand one after the other stand in IBUF as one byte list. -/
theorem ibufHolds_flatMap_pointBytes {s : State} {a : Nat} {ps : List (Nat × Nat)}
    (holds : ∀ k p, ps[k]? = some p → IbufHolds s (a + 4 * k) (pointBytes p)) :
    IbufHolds s a (ps.flatMap pointBytes) := by
  induction ps generalizing a with
  | nil => nofun
  | cons p ps ih =>
    refine ibufHolds_append.2 ⟨holds 0 p rfl, ih fun k q at_k => ?_⟩
    have next : a + (pointBytes p).length + 4 * k = a + 4 * (k + 1) := by
      rw [show (pointBytes p).length = 4 from rfl]
      omega
    rw [next]
    exact holds (k + 1) q at_k

theorem length_points {bs : List Byte} {n : Nat} (length : bs.length = 4 * n) : (points bs).length = n := by
  induction n generalizing bs with
  | zero => rw [List.length_eq_zero_iff.1 length]; rfl
  | succ n ih =>
    match bs with
    | _ :: _ :: _ :: _ :: rest =>
      simp only [List.length_cons] at length
      exact congrArg Nat.succ (ih (bs := rest) (by omega))

/-! ### PIXELS -/

section
variable {seq : Half} {r g b : Byte} {addr count : Half} {s : State}

theorem exec_pixels_of_outside (outside : 65536 < addr.toNat + 4 * count.toNat) :
    exec (.pixels seq r g b addr count) s = raise .invalidParameter s := withRange_of_gt outside

theorem exec_pixels_of_empty (empty : count.toNat = 0) :
    exec (.pixels seq r g b addr count) s = raise .emptyPointSet s :=
  (withRange_of_le (by omega)).trans (if_pos empty)

/-- Past its checks PIXELS reads its points and emits them (R152). -/
theorem exec_pixels_of_accepted (inside : addr.toNat + 4 * count.toNat ≤ 65536) (nonempty : count.toNat ≠ 0) :
    exec (.pixels seq r g b addr count) s =
      withBytes addr.toNat (4 * count.toNat) s fun bs => emitPoints seq r g b (points bs) s :=
  (withRange_of_le inside).trans (if_neg nonempty)

theorem exec_pixels_of_holds {bs : List Byte} (inside : addr.toNat + 4 * count.toNat ≤ 65536)
    (nonempty : count.toNat ≠ 0) (length : bs.length = 4 * count.toNat) (holds : IbufHolds s addr.toNat bs) :
    exec (.pixels seq r g b addr count) s = emitPoints seq r g b (points bs) s := by
  rw [exec_pixels_of_accepted inside nonempty, withBytes_of_read length (length ▸ holds)]

end

/-- Settles O37: the bytes read are the points' own, and the box is the one emitted. -/
theorem pixelsEmitsItsBoundingBox : Obligations.PixelsEmitsItsBoundingBox := by
  intro s seq r g b addr count Q x0 x1 y0 y1 P inside counted small holds inBox left right top bottom payload
  have ⟨p, hp, _⟩ := left
  have nonempty : count.toNat ≠ 0 := counted ▸ List.length_pos_of_mem hp |>.ne'
  have corners : x0 + (x1 - x0 + 1) - 1 = x1 ∧ y0 + (y1 - y0 + 1) - 1 = y1 := by
    obtain ⟨x_ge, x_le, y_ge, y_le⟩ := inBox p hp
    omega
  obtain ⟨lastColumn, lastRow⟩ := corners
  have emitted : exec (.pixels seq r g b addr count) s = emitBitmap seq r g b x0 y0 (x1 - x0 + 1) (y1 - y0 + 1)
      (fun row col => decide ((x0 + col, y0 + row) ∈ Q)) s := by
    rw [exec_pixels_of_holds inside nonempty (counted ▸ length_flatMap_pointBytes Q)
      (ibufHolds_flatMap_pointBytes holds), points_flatMap_pointBytes small]
    exact emitPoints_of_tight inBox left right top bottom
  rw [emitted]
  refine ⟨emitBitmap_of_fits ?_, emitBitmap_of_long ?_⟩ <;> rw [payload, lastColumn, lastRow]

/-- Settles O38: with count 0 every address is in range. -/
theorem pixelsErrorsInOrder : Obligations.PixelsErrorsInOrder := by
  refine fun s seq r g b addr count => ⟨exec_pixels_of_outside, exec_pixels_of_empty, fun inside gap => ?_⟩
  have nonempty : count.toNat ≠ 0 := by
    obtain ⟨k, hk, -⟩ := gap
    omega
  rw [exec_pixels_of_accepted inside nonempty, withBytes_of_gap gap]

/-- Settles O39: equal sets of points are empty together, and have one box and one matrix. -/
theorem pixelsOrderAndRepeatsDoNotMatter : Obligations.PixelsOrderAndRepeatsDoNotMatter := by
  intro s seq r g b addr count addr' count' bs bs' inside inside' length length' holds holds' same
  have together : count.toNat = 0 ↔ count'.toNat = 0 := by
    rw [← length_points length, ← length_points length', List.length_eq_zero_iff, List.length_eq_zero_iff,
      List.eq_nil_iff_forall_not_mem, List.eq_nil_iff_forall_not_mem]
    simp only [same]
  by_cases empty : count.toNat = 0
  · rw [exec_pixels_of_empty empty, exec_pixels_of_empty (together.1 empty)]
  · rw [exec_pixels_of_holds inside empty length holds,
      exec_pixels_of_holds inside' (mt together.2 empty) length' holds', emitPoints_congr same]

end Sys2Proof.Machine
end

section
/-! How a command ends: its errors change STATUS only, and are those R171 lists for it (R171, R174 to R176). -/

namespace Sys2Proof.Machine

/-- The codes of the errors a command can raise (R170, R171). -/
theorem CmdError.code_bounds {e : CmdError} (h : e ≠ .illegalCommand) : 1 ≤ e.code.toNat ∧ e.code.toNat ≤ 4 := by
  cases e with
  | illegalCommand => contradiction
  | _ => decide

/-- Settles O41: of the ways a command can end, the error is the one that changes STATUS only. -/
theorem errorsArePrecise : Obligations.ErrorsArePrecise := by
  intro i s t ran
  have ends : Ends s (.next t) := ran ▸ exec_ends i s
  cases ends with
  | failed e legal =>
    obtain ⟨least, greatest⟩ := CmdError.code_bounds legal
    exact .inr (.inr ⟨least, greatest, rfl⟩)
  | held => exact .inl rfl
  | wrote acc r => exact .inr (.inl ⟨rfl, rfl, rfl⟩)
  | emitted frames room => exact .inr (.inl ⟨rfl, rfl, rfl⟩)

/-- A pending command that ends with an ERR code ended with one of its opcode's errors (R171). -/
theorem err_of_endsAs {op : Opcode} {s t : State} (h : EndsAs op s (.next t)) (pending : s.pending = true)
    (ended : t.pending = false) (code : t.err ≠ 0x00) : ∃ e, e ∈ op.errors ∧ t.err = e.code := by
  cases h with
  | failed e listed => exact ⟨e, listed, rfl⟩
  | held => exact absurd ended (by simp [pending])
  | wrote acc r writes => exact absurd rfl code
  | emitted frames packets room => exact absurd rfl code

/-- Settles O42: the codes of the opcode's errors, opcode by opcode. -/
theorem onlyItsOwnErrors : Obligations.OnlyItsOwnErrors := by
  intro i s t pending ran ended code
  obtain ⟨e, listed, err⟩ := err_of_endsAs (ran ▸ exec_endsAs i s) pending ended code
  rw [err]
  generalize i.opcode = op at listed ⊢
  cases op with
  | ckclr | cktrail | pktReset | pktReady | pktUc => exact nomatch listed
  | chunk | uploadSeq =>
    obtain rfl | rfl | rfl : e = .invalidParameter ∨ e = .emptyPayload ∨ e = .tooManyChunks := by
      simpa [Opcode.errors] using listed
    · exact .inl rfl
    · exact .inr (.inl rfl)
    · exact .inr (.inr rfl)
  | pixels =>
    obtain rfl | rfl : e = .invalidParameter ∨ e = .emptyPointSet := by simpa [Opcode.errors] using listed
    · exact .inl rfl
    · exact .inr rfl
  | _ =>
    obtain rfl := List.mem_singleton.1 listed
    rfl

end Sys2Proof.Machine
end

section
/-! When the block has no step to take: idle, holding for queue space, or stopped by a model fault (R46, R178, R185, R192). -/

namespace Sys2Proof.Machine

/-- Settles O56: `step` answers the fault recorded, if there is one, before it looks at the move. -/
theorem modelFaultStopsTheRun : Obligations.ModelFaultStopsTheRun := by
  refine ⟨fun s f running met => ?_, fun s f recorded => ⟨?_, fun ⟨_, _, running⟩ => ?_⟩, fun s t goes => ?_⟩
  · rw [step_of_no_fault running, met, recordFault]
  · rw [step, guarded, recorded]
  · exact nomatch running.symm.trans recorded
  · obtain ⟨f, -, stops⟩ | ⟨running, -⟩ := step_cases s
    · exact nomatch stops.symm.trans goes
    · exact running

/-- With no command pending the block's step changes nothing (R185, log 1). -/
theorem blockStep_of_idle {s : State} (idle : s.pending = false) : blockStep s = .next s := by
  rw [blockStep, idle]
  rfl

/-- A turn moves at most the host's plan on: whether a command is pending, and the queue, stay. -/
theorem pending_outq_of_turn {s s' : State} (turn : BlockTurn s s') : s'.pending = s.pending ∧ s'.outq = s.outq := by
  obtain ⟨-, rfl⟩ | ⟨plan, -, rfl⟩ | ⟨plan, -, rfl⟩ := turn <;> exact ⟨rfl, rfl⟩

/-- Settles O57: an idle block's step changes nothing, and so does the execution of a command without room for its
frames (`emissionIsAllOrHold`), which the step then is (`stepRunsTheDecodedCommand`). -/
theorem idleBlockStaysAsItIs : Obligations.IdleBlockStaysAsItIs := by
  refine ⟨fun s running idle done => ⟨?_, idle, done, running⟩, fun s plan running idle next => ?_,
    fun s pending ⟨idle, _⟩ => ?_, fun s s' m bs i running pending latched decoded held turn => ?_⟩
  · rw [step_of_no_fault running, move, done, blockStep_of_idle idle, recordFault]
  · rw [step_of_no_fault running, move, next]
    exact congrArg (recordFault s) (blockStep_of_idle (s := { s with hostPlan := plan }) idle)
  · exact nomatch idle.symm.trans pending
  · have holds : exec i s' = .next s' → step s = .next s' :=
      (stepRunsTheDecodedCommand s s' m bs i running pending latched decoded held turn).1 s'
    obtain ⟨samePending, sameQueue⟩ := pending_outq_of_turn turn
    refine ⟨holds, fun t emptied ended emits full => holds ?_⟩
    obtain ⟨-, -, noRoom⟩ := emissionIsAllOrHold i s' t (samePending.trans pending) emptied ended
    exact noRoom emits (sameQueue ▸ full)

end Sys2Proof.Machine
end

section
/-! Block reset, and what a command's outcome cannot depend on (R190, R191, R202). -/

namespace Sys2Proof.Machine

/-- Settles O54: `State.blockReset` is the reset state with FAULT and the host's two fields kept. -/
theorem blockResetRestoresEverything : Obligations.BlockResetRestoresEverything := fun _ => rfl

/-- Settles O45: the inputs decide one effect for both states (`exec_hasEffect`), and an emission finds the same number of
free slots behind queues of the same length. -/
theorem commandsDependOnlyOnTheirInputs : Obligations.CommandsDependOnlyOnTheirInputs := by
  intro i s s' t sameIbuf sameAcc sameLength ran
  obtain ⟨effect, runs⟩ := exec_hasEffect i s
  rw [runs s ⟨fun _ => rfl, rfl⟩] at ran
  rw [runs s' ⟨sameIbuf, sameAcc⟩]
  have noFrames (q : List Frame) : q = q ++ [] := (List.append_nil q).symm
  cases effect with
  | failed e =>
    cases ran
    exact ⟨_, [], rfl, noFrames _, noFrames _, sameAcc, .inl ⟨rfl, rfl⟩, .inr ⟨rfl, rfl, rfl⟩⟩
  | faulted => cases ran
  | setsAcc acc =>
    cases ran
    exact ⟨_, [], rfl, noFrames _, noFrames _, rfl, .inl ⟨rfl, rfl⟩, .inr ⟨rfl, rfl, rfl⟩⟩
  | setsResult r =>
    cases ran
    exact ⟨_, [], rfl, noFrames _, noFrames _, sameAcc, .inr rfl, .inr ⟨rfl, rfl, rfl⟩⟩
  | emits first others =>
    by_cases room : s.outq.length + (first :: others).length ≤ Config.outqCapacity
    · cases (emit_of_room room).symm.trans ran
      exact ⟨_, first :: others, emit_of_room (sameLength ▸ room), rfl, rfl, sameAcc, .inl ⟨rfl, rfl⟩,
        .inr ⟨rfl, rfl, rfl⟩⟩
    · cases (emit_of_no_room (Nat.lt_of_not_le room)).symm.trans ran
      exact ⟨s', [], emit_of_no_room (sameLength ▸ Nat.lt_of_not_le room), noFrames _, noFrames _, sameAcc,
        .inl ⟨rfl, rfl⟩, .inl ⟨rfl, rfl⟩⟩

end Sys2Proof.Machine
end
